-- ==== Sys2Proof/Word.lean ====
section
/-! DEFINITION. The sizes of data the block handles: bytes, bus words, groups of four bytes, cipher blocks. -/

namespace Sys2Proof

/-- An 8-bit unsigned value (00_scope R10). -/
abbrev Byte := BitVec 8

/-- A bus word: 32 bits (R10, R62). -/
abbrev Word := BitVec 32

/-- Four bytes in string order: the IV's digit group (R22, R38), a word of the key schedule (R212) or a column of
the cipher's state (R212). -/
structure Quad where
  b0 : Byte
  b1 : Byte
  b2 : Byte
  b3 : Byte
deriving DecidableEq, Repr, Inhabited

/-- A 16-byte block (R190) in string order: bytes 0..3, 4..7, 8..11, 12..15. In the cipher these are the columns
of its state, `s[r][c]` being byte `r` of column `c` (R212). -/
structure Block where
  c0 : Quad
  c1 : Quad
  c2 : Quad
  c3 : Quad
deriving DecidableEq, Repr, Inhabited

/-- Apply `f` to each byte. -/
def Quad.map (f : Byte → Byte) (q : Quad) : Quad := ⟨f q.b0, f q.b1, f q.b2, f q.b3⟩

/-- Bytewise exclusive-or (R10, R191). -/
def Quad.xor (p q : Quad) : Quad := ⟨p.b0 ^^^ q.b0, p.b1 ^^^ q.b1, p.b2 ^^^ q.b2, p.b3 ^^^ q.b3⟩

/-- The four bytes in string order. -/
def Quad.bytes (q : Quad) : List Byte := [q.b0, q.b1, q.b2, q.b3]

/-- Apply `f` to each byte. -/
def Block.map (f : Byte → Byte) (b : Block) : Block := ⟨b.c0.map f, b.c1.map f, b.c2.map f, b.c3.map f⟩

/-- `a xor b` on two blocks: sixteen independent byte lanes (43_padding_cbc R191). -/
def Block.xor (a b : Block) : Block := ⟨a.c0.xor b.c0, a.c1.xor b.c1, a.c2.xor b.c2, a.c3.xor b.c3⟩

/-- The sixteen bytes in string order (R190, R212). -/
def Block.bytes (b : Block) : List Byte := b.c0.bytes ++ b.c1.bytes ++ b.c2.bytes ++ b.c3.bytes

end Sys2Proof
end

