-- ==== Sys2Proof/Config.lean ====
section
/-! DEFINITION. What a build fixes, and the free values: constants with no body, of which Lean knows nothing. -/

namespace Sys2Proof

/-- The parameters a build of the block fixes (00_scope R8). `KEY_LEN` is the length of `key`. -/
structure Build where
  /-- `KEY`: the key bytes, never on the bus (10_state R42). -/
  key : List Byte
  /-- `MAX_PT`: the capacity of the plaintext buffer in bytes. -/
  maxPt : Nat
  /-- `BASE` in units of the 16 KiB to which it is aligned: the number of the block's aperture on the bus (20_memory
  R63). -/
  aperture : Nat
  /-- The number of the platform's interrupt line that `irq` drives (60_exceptions R251). -/
  irqLine : Nat
deriving DecidableEq, Repr

/-- `OUT_CAP = MAX_PT + 32` (R8). -/
def Build.outCap (b : Build) : Nat := b.maxPt + 32

/-- `BASE`: the bus address of the aperture's first byte (R8, R63). -/
def Build.base (b : Build) : Nat := 0x4000 * b.aperture

/-- The constraints R9 puts on a build: `MAX_PT mod 16 = 0`, `1008 <= MAX_PT <= 4064`, `KEY_LEN` fits 8 bits. -/
def Build.wf (b : Build) : Bool :=
  b.maxPt % 16 == 0 && decide (1008 ≤ b.maxPt) && decide (b.maxPt ≤ 4064) && decide (b.key.length ≤ 255)

namespace Config

/-- `MAX_PT` of this hardware (R8). -/
def maxPt : Nat := 1024

/-- `KEY_LEN` of this hardware (R8). -/
def keyLen : Nat := 16

/-- FREE VALUE (log 8): byte `i` of this hardware's `KEY`, whose value is OPEN (R8); seven bits, as it is ASCII. -/
opaque keyByte (i : Nat) : BitVec 7

/-- `KEY` of this hardware: sixteen free ASCII bytes (R8; log 8). -/
def key : List Byte := (List.range keyLen).map fun i => (keyByte i).setWidth 8

/-- FREE VALUE (log 19): where the platform puts the aperture, in units of 16 KiB; `BASE` is OPEN (R8, R63). -/
opaque aperture : Nat

/-- FREE VALUE (log 19): the platform's interrupt line of `irq`, which is OPEN (R251). -/
opaque irqLine : Nat

/-- The default build (R8): `KEY_LEN = 16`, `MAX_PT = 1024`; `KEY`, `BASE` and the irq line free. -/
def build : Build := { key := key, maxPt := maxPt, aperture := aperture, irqLine := irqLine }

/-- FREE VALUE (log 7): the digits the digit source answers, by the place of the call (42_iv_generator R171): each a
value in 0..9 and nothing more is known of it. -/
opaque drawnDigit (call : Nat) : Fin 10

/-- FREE VALUE (log 5): what byte `i` of PT_BUF holds from the reset numbered `epoch` until the host writes it
(70_reset_and_hazards R271). -/
opaque unwrittenPt (epoch i : Nat) : Byte

/-- FREE VALUE (log 6): what byte `i` of OUT_BUF holds from the reset numbered `epoch` until a completion writes it
(10_state R41). -/
opaque unwrittenOut (epoch i : Nat) : Byte

/-- FREE VALUE (log 10): whether a transaction made while reset is asserted is answered OKAY. -/
opaque okayUnderReset (call : Nat) : Bool

/-- FREE VALUE (log 10): the read data of a transaction made while reset is asserted. -/
opaque rdataUnderReset (call : Nat) : Option Word

/-- FREE VALUE (log 14): the block transform for a key of a length R211 does not define; no reachable state
applies it. -/
opaque otherBlockEnc (key : List Byte) (b : Block) : Block

end Config

end Sys2Proof
end

