-- ==== Sys2Proof/Syntax.lean ====
section
/-! DEFINITION. The two formats of 30_encoding.md (R80): the bus transaction and the command word; and the
instructions: one constructor for each row of spec/opcode_table.json. -/

namespace Sys2Proof

/-- A bus transaction (R81): `off` is the 14-bit byte offset in the aperture; a write carries its data and the
byte strobes `strb[3:0]`. -/
inductive Transaction where
  | read (off : BitVec 14)
  | write (off : BitVec 14) (wdata : Word) (strb : BitVec 4)
deriving DecidableEq, Repr

/-- `off[13:0]` of a transaction. -/
def Transaction.off : Transaction → BitVec 14
  | .read off => off
  | .write off _ _ => off

/-- An access of a bus master at a bus address (20_memory R63); the spec gives the address no width (log 19). -/
inductive Access where
  | read (addr : Nat)
  | write (addr : Nat) (wdata : Word) (strb : BitVec 4)
deriving DecidableEq, Repr

/-- The bus address of an access. -/
def Access.addr : Access → Nat
  | .read addr => addr
  | .write addr _ _ => addr

/-- An encoded instruction, in one of the two formats of R80. -/
inductive Encoding where
  /-- a bus transaction (R81) -/
  | bus (t : Transaction)
  /-- a command word: the data of a write to CTRL (R84) -/
  | command (c : Word)
deriving DecidableEq, Repr

/-- The instructions: the 27 bus rows and the 5 command rows of spec/opcode_table.json (R91). `j` is the number of
the 32-bit word in a buffer window, at offset `4 * j` of the window (10_state R23). -/
inductive Instr where
  | rdId
  | wrIdRo (wdata : Word) (strb : BitVec 4)
  | rdCtrl
  | wrCtrl (wdata : Word) (strb : BitVec 4)
  | rdStatus
  | wrStatusRo (wdata : Word) (strb : BitVec 4)
  | rdPtLen
  | wrPtLen (wdata : Word) (strb : BitVec 4)
  | rdOutLen
  | wrOutLenRo (wdata : Word) (strb : BitVec 4)
  | rdIvCfg
  | wrIvCfg (wdata : Word) (strb : BitVec 4)
  | rdIvDigits
  | wrIvDigits (wdata : Word) (strb : BitVec 4)
  | rdIrqEn
  | wrIrqEn (wdata : Word) (strb : BitVec 4)
  | rdIvGroup
  | wrIvGroupRo (wdata : Word) (strb : BitVec 4)
  | rdCaps
  | wrCapsRo (wdata : Word) (strb : BitVec 4)
  | rdPtBuf (j : BitVec 10)
  | wrPtBuf (j : BitVec 10) (wdata : Word) (strb : BitVec 4)
  | rdOutBuf (j : BitVec 10)
  | wrOutBufRo (j : BitVec 10) (wdata : Word) (strb : BitVec 4)
  | busErrMisalignedOdd (t : Transaction)
  | busErrMisalignedHalf (t : Transaction)
  | busErrUnmapped (t : Transaction)
  | nop
  | encrypt
  | genIv
  | clear
  | illegal (c : Word)
deriving DecidableEq, Repr

end Sys2Proof
end

