-- ==== Sys2Proof/Machine/Offsets.lean ====
section
/-! DEFINITION. The tests on offsets and command words that the decoder, well-formedness and the buffer accesses share
(R82, R84, R100). -/

namespace Sys2Proof

/-- `implemented(off)` of 40_bus_access R100, for aligned offsets: the registers, PT_BUF, OUT_BUF (R64). -/
def implemented (maxPt : Nat) (off : BitVec 14) : Bool :=
  decide (off.toNat ≤ 0x024) ||
    (decide (0x1000 ≤ off.toNat) && decide (off.toNat < 0x1000 + maxPt)) ||
    (decide (0x2000 ≤ off.toNat) && decide (off.toNat < 0x2000 + (maxPt + 32)))

/-- `off[0] = 1`: misaligned (R101). -/
def oddOffset (off : BitVec 14) : Bool := decide (off.toNat % 2 = 1)

/-- `off[1:0] = 0b10`: misaligned (R101). -/
def halfOffset (off : BitVec 14) : Bool := decide (off.toNat % 4 = 2)

/-- The word `j` of a window of `cap` bytes exists: its offset `4 * j` lies below `cap` (R109 to R111). -/
def wordInside (cap : Nat) (j : BitVec 10) : Bool := decide (4 * j.toNat < cap)

/-- The words 0..3 are the legal commands (R84). -/
def legalCommand (c : Word) : Bool := decide (c.toNat < 4)

/-- The offset lies in the 4 KiB window `n`: `off[13:12] = n` (R64, R82). -/
def inWindow (n : Nat) (off : BitVec 14) : Bool := decide (off.toNat / 4096 = n)

/-- The number of the word an offset names in its window: `off[11:2]` (R82). -/
def wordNumber (off : BitVec 14) : BitVec 10 := BitVec.ofNat 10 (off.toNat / 4)

/-- The offset of word `j` of buffer window 1 or 2: `0x1000 + 4j`, `0x2000 + 4j` (R23, R82). -/
def windowOffset (window : Nat) (j : BitVec 10) : BitVec 14 := BitVec.ofNat 14 (0x1000 * window + 4 * j.toNat)

end Sys2Proof
end

