-- ==== Sys2Proof/WellFormed.lean ====
section
/-! DEFINITION. Which terms of `Instr` are instructions of a build whose plaintext buffer holds `maxPt` bytes. -/

namespace Sys2Proof

/-- An instruction is well formed when its operands lie in the row it names: a buffer word inside its buffer (R82),
a misaligned or unmapped transaction that is so (R101, R102), an illegal command word (R85). -/
def Instr.wf (maxPt : Nat) : Instr → Bool
  | .rdPtBuf j | .wrPtBuf j _ _ => wordInside maxPt j
  | .rdOutBuf j | .wrOutBufRo j _ _ => wordInside (maxPt + 32) j
  | .busErrMisalignedOdd t => oddOffset t.off
  | .busErrMisalignedHalf t => halfOffset t.off
  | .busErrUnmapped t => !oddOffset t.off && !halfOffset t.off && !implemented maxPt t.off
  | .illegal c => !legalCommand c
  | .rdId | .wrIdRo _ _ | .rdCtrl | .wrCtrl _ _ | .rdStatus | .wrStatusRo _ _ | .rdPtLen | .wrPtLen _ _ => true
  | .rdOutLen | .wrOutLenRo _ _ | .rdIvCfg | .wrIvCfg _ _ | .rdIvDigits | .wrIvDigits _ _ => true
  | .rdIrqEn | .wrIrqEn _ _ | .rdIvGroup | .wrIvGroupRo _ _ | .rdCaps | .wrCapsRo _ _ => true
  | .nop | .encrypt | .genIv | .clear => true

end Sys2Proof
end

