-- ==== Sys2Proof/Decode.lean ====
section
/-! DEFINITION. Decoding of transactions and command words (30_encoding.md), the encoder, and the rows of
spec/opcode_table.json. The decoder is total: what no row of its own takes is a bus-error row or ILLEGAL (R82, R85). -/

namespace Sys2Proof

/-! ### The decoder -/

/-- A read of an aligned, implemented offset (R82). -/
def decodeRead (off : BitVec 14) : Instr :=
  if off = 0x000 then .rdId
  else if off = 0x004 then .rdCtrl
  else if off = 0x008 then .rdStatus
  else if off = 0x00C then .rdPtLen
  else if off = 0x010 then .rdOutLen
  else if off = 0x014 then .rdIvCfg
  else if off = 0x018 then .rdIvDigits
  else if off = 0x01C then .rdIrqEn
  else if off = 0x020 then .rdIvGroup
  else if off = 0x024 then .rdCaps
  else if inWindow 1 off then .rdPtBuf (wordNumber off)
  else if inWindow 2 off then .rdOutBuf (wordNumber off)
  else .busErrUnmapped (.read off)

/-- A write to an aligned, implemented offset (R82). -/
def decodeWrite (off : BitVec 14) (wdata : Word) (strb : BitVec 4) : Instr :=
  if off = 0x000 then .wrIdRo wdata strb
  else if off = 0x004 then .wrCtrl wdata strb
  else if off = 0x008 then .wrStatusRo wdata strb
  else if off = 0x00C then .wrPtLen wdata strb
  else if off = 0x010 then .wrOutLenRo wdata strb
  else if off = 0x014 then .wrIvCfg wdata strb
  else if off = 0x018 then .wrIvDigits wdata strb
  else if off = 0x01C then .wrIrqEn wdata strb
  else if off = 0x020 then .wrIvGroupRo wdata strb
  else if off = 0x024 then .wrCapsRo wdata strb
  else if inWindow 1 off then .wrPtBuf (wordNumber off) wdata strb
  else if inWindow 2 off then .wrOutBufRo (wordNumber off) wdata strb
  else .busErrUnmapped (.write off wdata strb)

/-- Decode one transaction in the order of R83: misaligned, unmapped, then the transaction's own row. The later tests
of R83 (read-only, strobes, busy lock) are made by the row's meaning. -/
def decodeBus (maxPt : Nat) (t : Transaction) : Instr :=
  if oddOffset t.off then .busErrMisalignedOdd t
  else if halfOffset t.off then .busErrMisalignedHalf t
  else if !implemented maxPt t.off then .busErrUnmapped t
  else
    match t with
    | .read off => decodeRead off
    | .write off wdata strb => decodeWrite off wdata strb

/-- Decode a command word: all 32 bits are compared (R84, R85). -/
def decodeCommand (c : Word) : Instr :=
  if c = 0 then .nop
  else if c = 1 then .encrypt
  else if c = 2 then .genIv
  else if c = 3 then .clear
  else .illegal c

/-- Decode either format, in a build whose plaintext buffer holds `maxPt` bytes. -/
def decode (maxPt : Nat) : Encoding → Instr
  | .bus t => decodeBus maxPt t
  | .command c => decodeCommand c

/-! ### The encoder -/

/-- The transaction or command word that R82 and R84 give an instruction. -/
def encode : Instr → Encoding
  | .rdId => .bus (.read 0x000)
  | .wrIdRo d b => .bus (.write 0x000 d b)
  | .rdCtrl => .bus (.read 0x004)
  | .wrCtrl d b => .bus (.write 0x004 d b)
  | .rdStatus => .bus (.read 0x008)
  | .wrStatusRo d b => .bus (.write 0x008 d b)
  | .rdPtLen => .bus (.read 0x00C)
  | .wrPtLen d b => .bus (.write 0x00C d b)
  | .rdOutLen => .bus (.read 0x010)
  | .wrOutLenRo d b => .bus (.write 0x010 d b)
  | .rdIvCfg => .bus (.read 0x014)
  | .wrIvCfg d b => .bus (.write 0x014 d b)
  | .rdIvDigits => .bus (.read 0x018)
  | .wrIvDigits d b => .bus (.write 0x018 d b)
  | .rdIrqEn => .bus (.read 0x01C)
  | .wrIrqEn d b => .bus (.write 0x01C d b)
  | .rdIvGroup => .bus (.read 0x020)
  | .wrIvGroupRo d b => .bus (.write 0x020 d b)
  | .rdCaps => .bus (.read 0x024)
  | .wrCapsRo d b => .bus (.write 0x024 d b)
  | .rdPtBuf j => .bus (.read (windowOffset 1 j))
  | .wrPtBuf j d b => .bus (.write (windowOffset 1 j) d b)
  | .rdOutBuf j => .bus (.read (windowOffset 2 j))
  | .wrOutBufRo j d b => .bus (.write (windowOffset 2 j) d b)
  | .busErrMisalignedOdd t => .bus t
  | .busErrMisalignedHalf t => .bus t
  | .busErrUnmapped t => .bus t
  | .nop => .command 0
  | .encrypt => .command 1
  | .genIv => .command 2
  | .clear => .command 3
  | .illegal c => .command c

/-- The transaction that brings an encoded instruction to the block: itself, or a write of the command word to CTRL
with all strobes (R84, R107). -/
def Encoding.carrier : Encoding → Transaction
  | .bus t => t
  | .command c => .write 0x004 c 0xF

/-! ### Keys and the opcode table -/

/-- The decode key `K = dir << 14 | off`, a number of 15 bits (R81). -/
def Transaction.key : Transaction → Nat
  | .read off => off.toNat
  | .write off _ _ => 0x4000 + off.toNat

/-- The number the opcode table matches: the key of a transaction, or the command word. -/
def Encoding.tableBits : Encoding → Nat
  | .bus t => t.key
  | .command c => c.toNat

/-- A row of spec/opcode_table.json: its `match`, its `mask` and its `decode_priority` (R91). -/
structure OpcodeRow where
  pattern : Nat
  mask : Nat
  priority : Nat
deriving DecidableEq, Repr

/-- A number fits a row when its bits under the mask are the row's pattern. -/
def OpcodeRow.fits (r : OpcodeRow) (k : Nat) : Bool := k &&& r.mask == r.pattern

/-- The row of spec/opcode_table.json each instruction stands for. -/
def Instr.row : Instr → OpcodeRow
  | .rdId => ⟨0x0000, 0x7FFF, 3⟩
  | .wrIdRo _ _ => ⟨0x4000, 0x7FFF, 3⟩
  | .rdCtrl => ⟨0x0004, 0x7FFF, 3⟩
  | .wrCtrl _ _ => ⟨0x4004, 0x7FFF, 3⟩
  | .rdStatus => ⟨0x0008, 0x7FFF, 3⟩
  | .wrStatusRo _ _ => ⟨0x4008, 0x7FFF, 3⟩
  | .rdPtLen => ⟨0x000C, 0x7FFF, 3⟩
  | .wrPtLen _ _ => ⟨0x400C, 0x7FFF, 3⟩
  | .rdOutLen => ⟨0x0010, 0x7FFF, 3⟩
  | .wrOutLenRo _ _ => ⟨0x4010, 0x7FFF, 3⟩
  | .rdIvCfg => ⟨0x0014, 0x7FFF, 3⟩
  | .wrIvCfg _ _ => ⟨0x4014, 0x7FFF, 3⟩
  | .rdIvDigits => ⟨0x0018, 0x7FFF, 3⟩
  | .wrIvDigits _ _ => ⟨0x4018, 0x7FFF, 3⟩
  | .rdIrqEn => ⟨0x001C, 0x7FFF, 3⟩
  | .wrIrqEn _ _ => ⟨0x401C, 0x7FFF, 3⟩
  | .rdIvGroup => ⟨0x0020, 0x7FFF, 3⟩
  | .wrIvGroupRo _ _ => ⟨0x4020, 0x7FFF, 3⟩
  | .rdCaps => ⟨0x0024, 0x7FFF, 3⟩
  | .wrCapsRo _ _ => ⟨0x4024, 0x7FFF, 3⟩
  | .rdPtBuf _ => ⟨0x1000, 0x7003, 3⟩
  | .wrPtBuf _ _ _ => ⟨0x5000, 0x7003, 3⟩
  | .rdOutBuf _ => ⟨0x2000, 0x7003, 3⟩
  | .wrOutBufRo _ _ _ => ⟨0x6000, 0x7003, 3⟩
  | .busErrMisalignedOdd _ => ⟨0x0001, 0x0001, 1⟩
  | .busErrMisalignedHalf _ => ⟨0x0002, 0x0003, 1⟩
  | .busErrUnmapped _ => ⟨0x0000, 0x0000, 2⟩
  | .nop => ⟨0x00000000, 0xFFFFFFFF, 1⟩
  | .encrypt => ⟨0x00000001, 0xFFFFFFFF, 1⟩
  | .genIv => ⟨0x00000002, 0xFFFFFFFF, 1⟩
  | .clear => ⟨0x00000003, 0xFFFFFFFF, 1⟩
  | .illegal _ => ⟨0x00000000, 0x00000000, 2⟩

/-- The transaction whose key is `k`, with write data and strobes 0. -/
def transactionOfKey (k : Nat) : Transaction :=
  if 0x4000 ≤ k then .write (BitVec.ofNat 14 (k - 0x4000)) 0 0 else .read (BitVec.ofNat 14 k)

/-- The encoded instruction that a row's bits are: a bus row is at most two bytes and holds a 15-bit key, a command row
is four bytes and holds the command word (R80; log 17). -/
def encodingOfTableWord (nbits w : Nat) : Option Encoding :=
  if nbits ≤ 16 then
    if w < 2 ^ 15 then some (.bus (transactionOfKey w)) else none
  else if nbits = 32 then
    if w < 2 ^ 32 then some (.command (BitVec.ofNat 32 w)) else none
  else none

/-- What the decoder reads from an opcode-table row's bits, in the default build (R8; log 17). -/
def decodeTableWord (nbits w : Nat) : Option Instr :=
  (encodingOfTableWord nbits w).map (decode Config.maxPt)

end Sys2Proof
end

