-- ==== Sys2Proof/Machine/Aperture.lean ====
section
/-! DEFINITION. The block's place on the bus: which accesses lie in its aperture, and the transactions they are there
(20_memory.md R63, R66). -/

namespace Sys2Proof

/-- The aperture is the 16 KiB from `BASE` on (R63). -/
def Build.selects (b : Build) (addr : Nat) : Bool := decide (b.base ≤ addr) && decide (addr < b.base + 0x4000)

/-- The byte offset of a bus address in the aperture (R63). -/
def Build.offset (b : Build) (addr : Nat) : BitVec 14 := BitVec.ofNat 14 (addr - b.base)

/-- The transaction an access is at the block; none outside the aperture, where the bus is the platform's (R66). -/
def Build.transaction (b : Build) (a : Access) : Option Transaction :=
  if b.selects a.addr then
    match a with
    | .read addr => some (.read (b.offset addr))
    | .write addr wdata strb => some (.write (b.offset addr) wdata strb)
  else none

/-- The access that reaches the block as a transaction: at `BASE + off` (R63). -/
def Build.access (b : Build) : Transaction → Access
  | .read off => .read (b.base + off.toNat)
  | .write off wdata strb => .write (b.base + off.toNat) wdata strb

end Sys2Proof
end

