-- ==== Sys2Proof/Machine/State.lean ====
section
/-! DEFINITION. The state of the block, as plain data: the tuple of 10_state.md R22, what the bus answered last, the
build's parameters, the reset input, and the model's own fields; and the reasons a step can stop. -/

namespace Sys2Proof.Machine

/-- The causes of a failed command (R240). Codes 5..15 are never produced, so there are five names (log 13). -/
inductive ErrCode where
  | none
  | keySize
  | lenRange
  | ivDigit
  | illegalCmd
deriving DecidableEq, Repr

/-- The response of a transaction (R12, R81). -/
inductive Resp where
  | okay
  | slverr
deriving DecidableEq, Repr

/-- What a transaction returns: the response, and the read data of a read or of a bus error (R12, R81; log 4). -/
structure Response where
  resp : Resp
  rdata : Option Word
deriving DecidableEq, Repr

/-- One thing that can happen next (R15; log 2). -/
inductive Event where
  /-- the host performs a transaction (R100) -/
  | host (t : Transaction)
  /-- a bus master performs an access at a bus address, which is a transaction where it lies in the aperture (R63) -/
  | access (a : Access)
  /-- the engine takes its completion step (R146) -/
  | engine
  /-- the reset input changes: asserted (`true`) or released (`false`) (R270) -/
  | reset (asserted : Bool)
deriving DecidableEq, Repr

/-- The bytes of a buffer that were written since reset: (index, byte) cells, indexes strictly rising. An index not
listed has not been written (log 12). -/
abbrev Memory := List Host.Cell

/-- The whole state. -/
structure State where
  /-- STATUS.BUSY: an ENCRYPT is in progress (R27). -/
  busy : Bool
  /-- STATUS.DONE: the last command has completed (R28). -/
  done : Bool
  /-- STATUS.ERR: the last completed command failed (R29). -/
  err : Bool
  /-- STATUS.OUT_VALID: OUT_BUF holds a complete payload (R30). -/
  outValid : Bool
  /-- STATUS.IV_VALID: IV_GROUP holds a generated group (R31). -/
  ivValid : Bool
  /-- STATUS.VIOL: a write was ignored under BUSY (R32). -/
  viol : Bool
  /-- STATUS.ERR_CODE (R29, R240). -/
  errCode : ErrCode
  /-- PT_LEN.LEN (R33). -/
  ptLen : BitVec 16
  /-- OUT_LEN (R34). -/
  outLen : BitVec 16
  /-- IV_CFG.IV_SRC: the digits come from IV_DIGITS (R35). -/
  ivSrc : Bool
  /-- IV_DIGITS (R36). -/
  ivDigits : BitVec 16
  /-- IRQ_EN.DONE_IE (R37). -/
  doneIe : Bool
  /-- IV_GROUP (R38). -/
  ivGroup : Quad
  /-- PT_BUF: the bytes written since reset (R40). -/
  ptBuf : Memory
  /-- OUT_BUF: the bytes written since reset (R41). -/
  outBuf : Memory
  /-- The build's parameters; no step changes them (R8, R273; log 1). -/
  build : Build
  /-- What the last transaction returned (R100; log 3). -/
  response : Option Response
  /-- The level of the reset input (R270; log 10). -/
  resetHeld : Bool
  /-- MODEL'S OWN: what happens next, oldest first (log 2). -/
  events : List Event
  /-- MODEL'S OWN: the place of the next free value (log 7, log 10). -/
  fresh : Nat
  /-- MODEL'S OWN: how often the reset input applied the reset values; names the unwritten bytes (log 5, log 6). -/
  epoch : Nat
deriving DecidableEq, Repr

/-- Reasons for which the machine stops with a fault: there are none. The block never traps, stalls or hangs a host
(R123, 60_exceptions): a bus error or a failed command is a next state. -/
inductive Fault where
deriving DecidableEq, Repr

/-- Reasons for which a step is refused. -/
inductive Refusal where
  /-- Raised by `exec` for an instruction that has no meaning yet; safe. No instruction is left so. -/
  | notModelled (mnemonic : String)
  /-- Raised by `step` when the build's parameters break R9: "A build whose parameters break these constraints is not
  a build of this hardware; a model refuses it". Safe: nothing is claimed of such a machine (log 15). -/
  | notABuild
deriving DecidableEq, Repr

/-- The block right after reset (R46), in the default build, with nothing pending. -/
def State.reset : State where
  busy := false
  done := false
  err := false
  outValid := false
  ivValid := false
  viol := false
  errCode := .none
  ptLen := 0
  outLen := 0
  ivSrc := false
  ivDigits := 0
  doneIe := false
  ivGroup := ⟨0, 0, 0, 0⟩
  ptBuf := []
  outBuf := []
  build := Config.build
  response := none
  resetHeld := false
  events := []
  fresh := 0
  epoch := 0

end Sys2Proof.Machine
end

