-- ==== Sys2Proof/Machine/Operands.lean ====
section
/-! DEFINITION. Operand forms: byte lanes and strobes, little-endian words, the fields of register writes (R60, R87),
the digits of IV_DIGITS (R36). -/

namespace Sys2Proof.Machine

/-- `le32(b0, b1, b2, b3) = b0 | b1<<8 | b2<<16 | b3<<24` (R11, R60). -/
def le32 (b0 b1 b2 b3 : Byte) : Word :=
  b0.setWidth 32 ||| b1.setWidth 32 <<< 8 ||| b2.setWidth 32 <<< 16 ||| b3.setWidth 32 <<< 24

/-- `wdata[8k+7:8k]`: byte lane `k` of a word (R81, R87). -/
def lane (wdata : Word) (k : Nat) : Byte := wdata.extractLsb' (8 * k) 8

/-- A register write enables all four byte lanes (R103). -/
def fullStrobes (strb : BitVec 4) : Bool := strb == 0xF

/-- `wdata[15:0]`: the field of PT_LEN and IV_DIGITS (R87). -/
def low16 (wdata : Word) : BitVec 16 := wdata.extractLsb' 0 16

/-- `wdata[0]`: the field of IV_CFG and IRQ_EN (R87). -/
def bit0 (wdata : Word) : Bool := wdata.getLsbD 0

/-- A 16-bit field as a read shows it, `zext_32` (R12). -/
def zext16 (v : BitVec 16) : Word := v.setWidth 32

/-- A one-bit field as a read shows it, `zext_32` (R12). -/
def zext1 (b : Bool) : Word := (BitVec.ofBool b).setWidth 32

/-- The byte index of word `j` in its buffer window: `w = 4 * j` (R23, R109). -/
def wordIndex (j : BitVec 10) : Nat := 4 * j.toNat

/-- `Dk = IV_DIGITS[4k+3:4k]` (R36, R172). -/
def digit (digits : BitVec 16) (k : Nat) : BitVec 4 := digits.extractLsb' (4 * k) 4

/-- Every digit of IV_DIGITS is at most 9 (R144 check 3, R172). -/
def digitsLegal (digits : BitVec 16) : Bool :=
  decide ((digit digits 0).toNat ≤ 9) && decide ((digit digits 1).toNat ≤ 9) &&
    decide ((digit digits 2).toNat ≤ 9) && decide ((digit digits 3).toNat ≤ 9)

/-- The ASCII character of a digit: `0x30 + d` (R173). -/
def asciiDigit (d : Nat) : Byte := BitVec.ofNat 8 (0x30 + d)

end Sys2Proof.Machine
end

