-- ==== Sys2Proof/Machine/Ops.lean ====
section
/-! DEFINITION. The named operations over the buffers and the state: reading and writing buffer bytes, answering a
transaction, bus errors and busy violations, failing a command and acknowledging the failure, reset. -/

namespace Sys2Proof.Machine

/-! ### Buffers (R40, R41; log 12) -/

/-- The byte written at index `i`, if one was written since reset. -/
def Memory.lookup : Memory → Nat → Option Byte
  | [], _ => none
  | (a, b) :: m, i => if a = i then some b else Memory.lookup m i

/-- Write byte `v` at index `i`, keeping the indexes strictly rising. -/
def Memory.insert : Memory → Nat → Byte → Memory
  | [], i, v => [(i, v)]
  | (a, b) :: m, i, v =>
    if i < a then (i, v) :: (a, b) :: m
    else if i = a then (i, v) :: m
    else (a, b) :: Memory.insert m i v

/-- Write the bytes `vs` at `i, i+1, …`. -/
def Memory.writeBytes : Memory → Nat → List Byte → Memory
  | m, _, [] => m
  | m, i, v :: vs => Memory.writeBytes (Memory.insert m i v) (i + 1) vs

/-- Write lane `k` of `wdata` at index `w + k` if strobe `k` is set (R110). -/
def Memory.writeLane (wdata : Word) (strb : BitVec 4) (w : Nat) (m : Memory) (k : Nat) : Memory :=
  if strb.getLsbD k then Memory.insert m (w + k) (lane wdata k) else m

/-- The loop of R110: `for k in 0..3: if strb[k] = 1: PT_BUF[w+k] <- wdata[8k+7:8k]`. -/
def Memory.writeWord (wdata : Word) (strb : BitVec 4) (w : Nat) (m : Memory) : Memory :=
  [0, 1, 2, 3].foldl (Memory.writeLane wdata strb w) m

/-- The indexes rise strictly from `lo` on and stay below `cap`. -/
def Memory.risingFrom (cap : Nat) : Nat → Memory → Bool
  | _, [] => true
  | lo, (a, _) :: m => decide (lo ≤ a) && decide (a < cap) && Memory.risingFrom cap (a + 1) m

/-- The canonical form of a buffer of `cap` bytes: indexes strictly rising, each below `cap`. -/
def Memory.wf (cap : Nat) (m : Memory) : Bool := Memory.risingFrom cap 0 m

/-- `PT_BUF[i]`: the byte written last, or the unspecified byte of the last reset (R40, R271). -/
def State.ptByte (s : State) (i : Nat) : Byte :=
  (Memory.lookup s.ptBuf i).getD (Config.unwrittenPt s.epoch i)

/-- `OUT_BUF[i]`, behind the gate: the byte written last, or the unspecified byte of the last reset (R41). -/
def State.outByte (s : State) (i : Nat) : Byte :=
  (Memory.lookup s.outBuf i).getD (Config.unwrittenOut s.epoch i)

/-- A byte of OUT_BUF as the host sees it: gated by OUT_VALID and OUT_LEN (R111). -/
def State.gatedOutByte (s : State) (i : Nat) : Byte :=
  if s.outValid && decide (i < s.outLen.toNat) then s.outByte i else 0x00

/-- `PT_BUF[0 : PT_LEN.LEN]` (R146). -/
def State.plaintext (s : State) : List Byte := (List.range s.ptLen.toNat).map s.ptByte

/-! ### Answering a transaction (R12, R100) -/

/-- A read answered OKAY with `v`. -/
def State.readOkay (s : State) (v : Word) : State := { s with response := some ⟨.okay, some v⟩ }

/-- A write answered OKAY (log 4). -/
def State.writeOkay (s : State) : State := { s with response := some ⟨.okay, none⟩ }

/-- `raise BusError`: SLVERR, read data 0, no state change (R12, R246). -/
def State.busError (s : State) : State := { s with response := some ⟨.slverr, some 0⟩ }

/-- The busy lock: VIOL is set, nothing else changes, the answer is OKAY (R104). -/
def State.violation (s : State) : State := { s with viol := true, response := some ⟨.okay, none⟩ }

/-- The answer to a transaction while reset is asserted, which has no effect (R270); the spec does not state the
answer, so it is a free value (log 10). -/
def State.replyUnderReset (s : State) : State :=
  { s with
    response := some ⟨if Config.okayUnderReset s.fresh then .okay else .slverr, Config.rdataUnderReset s.fresh⟩
    fresh := s.fresh + 1 }

/-- A write to a register: partial strobes are a bus error (R103); a locked register ignores it while BUSY (R104);
otherwise it is answered OKAY and has its effect. -/
def State.writeRegister (s : State) (strb : BitVec 4) (locked : Bool) (effect : State → State) : State :=
  if !fullStrobes strb then s.busError
  else if locked && s.busy then s.violation
  else (effect s).writeOkay

/-- A nonzero command word: ignored with VIOL while BUSY, otherwise accepted (R140). The write that carries it is
answered OKAY whether the command fails or not (R107, R241). -/
def State.command (s : State) (effect : State → State) : State :=
  if s.busy then s.violation else (effect s).writeOkay

/-! ### Failing a command and acknowledging the failure (R141, R241, R254) -/

/-- `raise CmdError(code)`: the block's exception entry (R241, R253). -/
def State.raiseCmdError (s : State) (code : ErrCode) : State := { s with errCode := code, err := true, done := true }

/-- The prologue of an accepted ENCRYPT, GEN_IV or illegal command (R141); it acknowledges an earlier failure (R254). -/
def State.acknowledge (s : State) : State := { s with done := false, err := false, errCode := .none }

/-! ### Reset (R270) -/

/-- Reset is asserted: every register and flag takes its value of R46, an ENCRYPT in progress is abandoned (R272), the
buffers' bytes are unspecified anew (R271); the build stays (R273). What is pending, and the places in the streams
of free values, are the model's own and go on (log 10). -/
def State.holdReset (s : State) : State :=
  { State.reset with
    build := s.build
    resetHeld := true
    events := s.events
    fresh := s.fresh
    epoch := s.epoch + 1 }

/-- A change of the reset input: assertion applies the reset values, and so does release (R270). Releasing an input
that is not asserted changes nothing. -/
def State.resetInput (s : State) (asserted : Bool) : State :=
  if asserted then s.holdReset
  else if s.resetHeld then { s.holdReset with resetHeld := false }
  else s

end Sys2Proof.Machine
end

