-- ==== Sys2Proof/Machine/Buffers.lean ====
section
/-! DEFINITION. Reads and writes of the buffer windows (R109 to R111). A word beyond the buffer is unmapped (R102);
the decoder never makes such an instruction (log 16). -/

namespace Sys2Proof.Machine

/-- RD PT_BUF word `j` (R109); allowed under BUSY. -/
def execRdPtBuf (j : BitVec 10) (s : State) : Host.Outcome State Fault Refusal :=
  if wordInside s.build.maxPt j then
    .next (s.readOkay (le32 (s.ptByte (wordIndex j)) (s.ptByte (wordIndex j + 1)) (s.ptByte (wordIndex j + 2))
      (s.ptByte (wordIndex j + 3))))
  else .next s.busError

/-- WR PT_BUF word `j` with byte strobes (R110); locked while BUSY whatever the strobes (R104). -/
def execWrPtBuf (j : BitVec 10) (wdata : Word) (strb : BitVec 4) (s : State) : Host.Outcome State Fault Refusal :=
  if wordInside s.build.maxPt j then
    if s.busy then .next s.violation
    else .next { s with ptBuf := Memory.writeWord wdata strb (wordIndex j) s.ptBuf }.writeOkay
  else .next s.busError

/-- RD OUT_BUF word `j`, through the gate (R111). -/
def execRdOutBuf (j : BitVec 10) (s : State) : Host.Outcome State Fault Refusal :=
  if wordInside s.build.outCap j then
    .next (s.readOkay (le32 (s.gatedOutByte (wordIndex j)) (s.gatedOutByte (wordIndex j + 1))
      (s.gatedOutByte (wordIndex j + 2)) (s.gatedOutByte (wordIndex j + 3))))
  else .next s.busError

end Sys2Proof.Machine
end

