-- ==== Sys2Proof/Machine/BusErrors.lean ====
section
/-! DEFINITION. The transactions that are bus errors whatever the state (R101 to R103): SLVERR, read data 0, no state
change; VIOL is not set even while BUSY, since these tests come before the busy lock (R83). -/

namespace Sys2Proof.Machine

/-- A write to ID (R103). -/
def execWrIdRo (_wdata : Word) (_strb : BitVec 4) (s : State) : Host.Outcome State Fault Refusal := .next s.busError

/-- A write to STATUS (R103): it clears no flag. -/
def execWrStatusRo (_wdata : Word) (_strb : BitVec 4) (s : State) : Host.Outcome State Fault Refusal :=
  .next s.busError

/-- A write to OUT_LEN (R103). -/
def execWrOutLenRo (_wdata : Word) (_strb : BitVec 4) (s : State) : Host.Outcome State Fault Refusal :=
  .next s.busError

/-- A write to IV_GROUP (R103). -/
def execWrIvGroupRo (_wdata : Word) (_strb : BitVec 4) (s : State) : Host.Outcome State Fault Refusal :=
  .next s.busError

/-- A write to CAPS (R103). -/
def execWrCapsRo (_wdata : Word) (_strb : BitVec 4) (s : State) : Host.Outcome State Fault Refusal := .next s.busError

/-- A write to an OUT_BUF word (R103). -/
def execWrOutBufRo (_j : BitVec 10) (_wdata : Word) (_strb : BitVec 4) (s : State) :
    Host.Outcome State Fault Refusal := .next s.busError

/-- A transaction with `off[0] = 1` (R101). -/
def execBusErrMisalignedOdd (_t : Transaction) (s : State) : Host.Outcome State Fault Refusal := .next s.busError

/-- A transaction with `off[1:0] = 0b10` (R101). -/
def execBusErrMisalignedHalf (_t : Transaction) (s : State) : Host.Outcome State Fault Refusal := .next s.busError

/-- A transaction to an offset that is not implemented (R102). -/
def execBusErrUnmapped (_t : Transaction) (s : State) : Host.Outcome State Fault Refusal := .next s.busError

end Sys2Proof.Machine
end

