-- ==== Sys2Proof/Machine/Aes.lean ====
section
/-! DEFINITION. The block transform E: AES as 44_block_cipher.md gives it (R210 to R223; log 11). -/

namespace Sys2Proof.Machine.Aes

open Sys2Proof

/-! ### Field arithmetic (R213 to R216) -/

/-- Multiplication by 0x02 in GF(2^8) (R213). -/
def xtime (a : Byte) : Byte := (a <<< 1) ^^^ (if a.getLsbD 7 then 0x1B else 0x00)

/-- `xtime` applied `k` times. -/
def xtimes : Nat → Byte → Byte
  | 0, a => a
  | k + 1, a => xtime (xtimes k a)

/-- `mul(a, b)`: the exclusive-or of `xtime^k(a)` over the set bits `k` of `b` (R213). -/
def mul (a b : Byte) : Byte :=
  (List.range 8).foldl (fun acc k => if b.getLsbD k then acc ^^^ xtimes k a else acc) 0x00

/-- `inv(a)`: the multiplicative inverse, and `inv(0) = 0` (R214). -/
def inv (a : Byte) : Byte :=
  (((List.range 256).map (BitVec.ofNat 8)).find? fun b => mul a b == 0x01).getD 0x00

/-- The S-box as R215 computes it. -/
def sboxFormula (a : Byte) : Byte :=
  let b := inv a
  b ^^^ b.rotateLeft 1 ^^^ b.rotateLeft 2 ^^^ b.rotateLeft 3 ^^^ b.rotateLeft 4 ^^^ 0x63

/-- The S-box table of R216: row `H`, column `L` holds `S(0xHL)`. -/
def sboxTable : List (List Byte) := [
  [0x63, 0x7c, 0x77, 0x7b, 0xf2, 0x6b, 0x6f, 0xc5, 0x30, 0x01, 0x67, 0x2b, 0xfe, 0xd7, 0xab, 0x76],
  [0xca, 0x82, 0xc9, 0x7d, 0xfa, 0x59, 0x47, 0xf0, 0xad, 0xd4, 0xa2, 0xaf, 0x9c, 0xa4, 0x72, 0xc0],
  [0xb7, 0xfd, 0x93, 0x26, 0x36, 0x3f, 0xf7, 0xcc, 0x34, 0xa5, 0xe5, 0xf1, 0x71, 0xd8, 0x31, 0x15],
  [0x04, 0xc7, 0x23, 0xc3, 0x18, 0x96, 0x05, 0x9a, 0x07, 0x12, 0x80, 0xe2, 0xeb, 0x27, 0xb2, 0x75],
  [0x09, 0x83, 0x2c, 0x1a, 0x1b, 0x6e, 0x5a, 0xa0, 0x52, 0x3b, 0xd6, 0xb3, 0x29, 0xe3, 0x2f, 0x84],
  [0x53, 0xd1, 0x00, 0xed, 0x20, 0xfc, 0xb1, 0x5b, 0x6a, 0xcb, 0xbe, 0x39, 0x4a, 0x4c, 0x58, 0xcf],
  [0xd0, 0xef, 0xaa, 0xfb, 0x43, 0x4d, 0x33, 0x85, 0x45, 0xf9, 0x02, 0x7f, 0x50, 0x3c, 0x9f, 0xa8],
  [0x51, 0xa3, 0x40, 0x8f, 0x92, 0x9d, 0x38, 0xf5, 0xbc, 0xb6, 0xda, 0x21, 0x10, 0xff, 0xf3, 0xd2],
  [0xcd, 0x0c, 0x13, 0xec, 0x5f, 0x97, 0x44, 0x17, 0xc4, 0xa7, 0x7e, 0x3d, 0x64, 0x5d, 0x19, 0x73],
  [0x60, 0x81, 0x4f, 0xdc, 0x22, 0x2a, 0x90, 0x88, 0x46, 0xee, 0xb8, 0x14, 0xde, 0x5e, 0x0b, 0xdb],
  [0xe0, 0x32, 0x3a, 0x0a, 0x49, 0x06, 0x24, 0x5c, 0xc2, 0xd3, 0xac, 0x62, 0x91, 0x95, 0xe4, 0x79],
  [0xe7, 0xc8, 0x37, 0x6d, 0x8d, 0xd5, 0x4e, 0xa9, 0x6c, 0x56, 0xf4, 0xea, 0x65, 0x7a, 0xae, 0x08],
  [0xba, 0x78, 0x25, 0x2e, 0x1c, 0xa6, 0xb4, 0xc6, 0xe8, 0xdd, 0x74, 0x1f, 0x4b, 0xbd, 0x8b, 0x8a],
  [0x70, 0x3e, 0xb5, 0x66, 0x48, 0x03, 0xf6, 0x0e, 0x61, 0x35, 0x57, 0xb9, 0x86, 0xc1, 0x1d, 0x9e],
  [0xe1, 0xf8, 0x98, 0x11, 0x69, 0xd9, 0x8e, 0x94, 0x9b, 0x1e, 0x87, 0xe9, 0xce, 0x55, 0x28, 0xdf],
  [0x8c, 0xa1, 0x89, 0x0d, 0xbf, 0xe6, 0x42, 0x68, 0x41, 0x99, 0x2d, 0x0f, 0xb0, 0x54, 0xbb, 0x16]
  ]

/-- `S(a)`, read from the table (R216). -/
def sbox (a : Byte) : Byte := (sboxTable.getD (a.toNat / 16) []).getD (a.toNat % 16) 0x00

/-! ### Key expansion (R217, R218) -/

/-- `Rcon[j]` for `j >= 1` (R217). -/
def rcon (j : Nat) : Quad := ⟨xtimes (j - 1) 0x01, 0x00, 0x00, 0x00⟩

/-- `RotWord` (R218). -/
def rotWord (q : Quad) : Quad := ⟨q.b1, q.b2, q.b3, q.b0⟩

/-- `SubWord` (R218). -/
def subWord (q : Quad) : Quad := q.map sbox

/-- The words of the key, taken in string order (R212, R218): `n` words from byte `4 * i` on. -/
def keyWord (k : List Byte) (i : Nat) : Quad :=
  ⟨k.getD (4 * i) 0, k.getD (4 * i + 1) 0, k.getD (4 * i + 2) 0, k.getD (4 * i + 3) 0⟩

/-- The term `t` of R218 for word `i`, made from the word before it. -/
def scheduleTerm (nk i : Nat) (prev : Quad) : Quad :=
  if i % nk = 0 then (subWord (rotWord prev)).xor (rcon (i / nk))
  else if nk = 8 ∧ i % 8 = 4 then subWord prev
  else prev

/-- The loop of R218: `n` more words from word `i` on; `ws` holds the words made so far, the newest first. -/
def expandWords (nk : Nat) : Nat → Nat → List Quad → List Quad
  | 0, _, ws => ws
  | n + 1, i, ws =>
    expandWords nk n (i + 1)
      (((ws.getD (nk - 1) ⟨0, 0, 0, 0⟩).xor (scheduleTerm nk i (ws.getD 0 ⟨0, 0, 0, 0⟩))) :: ws)

/-- `Nr = Nk + 6` (R211). -/
def rounds (nk : Nat) : Nat := nk + 6

/-- `KeyExpansion(K)` for a key of `nk` words: `w[0 .. 4(Nr+1)-1]` (R218). -/
def keyExpansion (nk : Nat) (k : List Byte) : List Quad :=
  (expandWords nk (4 * (rounds nk + 1) - nk) nk (((List.range nk).map (keyWord k)).reverse)).reverse

/-- Round key `r`: the words `w[4r .. 4r+3]` (R218). -/
def roundKey (w : List Quad) (r : Nat) : Block :=
  ⟨w.getD (4 * r) ⟨0, 0, 0, 0⟩, w.getD (4 * r + 1) ⟨0, 0, 0, 0⟩, w.getD (4 * r + 2) ⟨0, 0, 0, 0⟩,
    w.getD (4 * r + 3) ⟨0, 0, 0, 0⟩⟩

/-! ### Round functions (R219 to R222) -/

/-- `SubBytes` (R219). -/
def subBytes (s : Block) : Block := s.map sbox

/-- `ShiftRows`: `s'[r][c] = s[r][(c + r) mod 4]` (R220). -/
def shiftRows (s : Block) : Block :=
  ⟨⟨s.c0.b0, s.c1.b1, s.c2.b2, s.c3.b3⟩, ⟨s.c1.b0, s.c2.b1, s.c3.b2, s.c0.b3⟩,
    ⟨s.c2.b0, s.c3.b1, s.c0.b2, s.c1.b3⟩, ⟨s.c3.b0, s.c0.b1, s.c1.b2, s.c2.b3⟩⟩

/-- `mul(2, a)` (R213). -/
def mul2 (a : Byte) : Byte := xtime a

/-- `mul(3, a) = xtime(a) xor a` (R213). -/
def mul3 (a : Byte) : Byte := xtime a ^^^ a

/-- One column of `MixColumns` (R221). -/
def mixColumn (a : Quad) : Quad :=
  ⟨mul2 a.b0 ^^^ mul3 a.b1 ^^^ a.b2 ^^^ a.b3,
    a.b0 ^^^ mul2 a.b1 ^^^ mul3 a.b2 ^^^ a.b3,
    a.b0 ^^^ a.b1 ^^^ mul2 a.b2 ^^^ mul3 a.b3,
    mul3 a.b0 ^^^ a.b1 ^^^ a.b2 ^^^ mul2 a.b3⟩

/-- `MixColumns` (R221). -/
def mixColumns (s : Block) : Block := ⟨mixColumn s.c0, mixColumn s.c1, mixColumn s.c2, mixColumn s.c3⟩

/-- `AddRoundKey(r)` (R222): byte `j` of word `4r + c` onto `s[j][c]`. -/
def addRoundKey (w : List Quad) (r : Nat) (s : Block) : Block := s.xor (roundKey w r)

/-! ### The cipher (R223) -/

/-- Rounds `r, r+1, …`, `n` of them, each SubBytes, ShiftRows, MixColumns, AddRoundKey (R223). -/
def middleRounds (w : List Quad) : Nat → Nat → Block → Block
  | 0, _, s => s
  | n + 1, r, s => middleRounds w n (r + 1) (addRoundKey w r (mixColumns (shiftRows (subBytes s))))

/-- `Cipher(in, w)` with `nr` rounds (R223): the last has no MixColumns. -/
def cipher (nr : Nat) (w : List Quad) (b : Block) : Block :=
  addRoundKey w nr (shiftRows (subBytes (middleRounds w (nr - 1) 1 (addRoundKey w 0 b))))

/-- The key lengths the cipher accepts (R3, R211). -/
def keyLengthOk (n : Nat) : Bool := n == 16 || n == 24 || n == 32

/-- `E(K, B) = Cipher(B, KeyExpansion(K))` (R210, R223). Only 16, 24 and 32 key bytes reach it (R211); for any other
length it is a free function (log 14). -/
def blockEnc (k : List Byte) (b : Block) : Block :=
  if keyLengthOk k.length then cipher (rounds (k.length / 4)) (keyExpansion (k.length / 4) k) b
  else Config.otherBlockEnc k b

end Sys2Proof.Machine.Aes
end

