-- ==== Sys2Proof/Machine/Cbc.lean ====
section
/-! DEFINITION. Padding, CBC chaining and the payload (43_padding_cbc.md). -/

namespace Sys2Proof.Machine

open Sys2Proof

/-- `n = 16 - (L mod 16)` (R192). -/
def padCount (len : Nat) : Nat := 16 - len % 16

/-- `pad(P) = P || (byte n)^n` (R192). -/
def pad (p : List Byte) : List Byte :=
  p ++ List.replicate (padCount p.length) (BitVec.ofNat 8 (padCount p.length))

/-- The four bytes of `q` from index `i` on. -/
def quadAt (q : List Byte) (i : Nat) : Quad := ⟨q.getD i 0, q.getD (i + 1) 0, q.getD (i + 2) 0, q.getD (i + 3) 0⟩

/-- The block of bytes `16 i .. 16 i + 15`, counting blocks from 0 (R190). -/
def blockAt (q : List Byte) (i : Nat) : Block :=
  ⟨quadAt q (16 * i), quadAt q (16 * i + 4), quadAt q (16 * i + 8), quadAt q (16 * i + 12)⟩

/-- The blocks of a string (R190). -/
def blocksOf (q : List Byte) : List Block := (List.range (q.length / 16)).map (blockAt q)

/-- The loop of R195: `C_i = E(K, Q_i xor C_(i-1))`, started with `prev` (R194). -/
def cbcBlocks (k : List Byte) : Block → List Block → List Block
  | _, [] => []
  | prev, q :: qs => Aes.blockEnc k (q.xor prev) :: cbcBlocks k (Aes.blockEnc k (q.xor prev)) qs

/-- `cbc_encrypt(K, IV, Q)` (R195). -/
def cbcEncrypt (k : List Byte) (iv : Block) (q : List Byte) : List Byte :=
  (cbcBlocks k iv (blocksOf q)).flatMap Block.bytes

/-- `payload(K, IV, P) = IV || cbc_encrypt(K, IV, pad(P))` (R197). -/
def payload (k : List Byte) (iv : Block) (p : List Byte) : List Byte := iv.bytes ++ cbcEncrypt k iv (pad p)

end Sys2Proof.Machine
end

