-- ==== Sys2Proof/Machine/IvGenerator.lean ====
section
/-! DEFINITION. The low-entropy IV pattern generator (42_iv_generator.md). -/

namespace Sys2Proof.Machine

/-- The group of four digits: their ASCII characters, the first digit first (R173). -/
def groupOfDigits (d0 d1 d2 d3 : Nat) : Quad := ⟨asciiDigit d0, asciiDigit d1, asciiDigit d2, asciiDigit d3⟩

/-- `IV = G || G || G || G` (R173). -/
def ivOfGroup (g : Quad) : Block := ⟨g, g, g, g⟩

/-- The group of four drawn digits: calls `n, n+1, n+2, n+3` of the digit source, in that order (R171). -/
def drawnGroup (n : Nat) : Quad :=
  groupOfDigits (Config.drawnDigit n).val (Config.drawnDigit (n + 1)).val (Config.drawnDigit (n + 2)).val
    (Config.drawnDigit (n + 3)).val

/-- The group of the override digits, if all are legal (R172). -/
def overrideGroup (digits : BitVec 16) : Option Quad :=
  if digitsLegal digits then
    some (groupOfDigits (digit digits 0).toNat (digit digits 1).toNat (digit digits 2).toNat (digit digits 3).toNat)
  else none

/-- `make_group()` (R174): no group where an override digit is above 9; the drawn digits are used up, the override's
are not drawn. It writes nothing of the block. -/
def State.makeGroup (s : State) : Option Quad × State :=
  if s.ivSrc then (overrideGroup s.ivDigits, s)
  else (some (drawnGroup s.fresh), { s with fresh := s.fresh + 4 })

end Sys2Proof.Machine
end

