-- ==== Sys2Proof/Machine/Engine.lean ====
section
/-! DEFINITION. The engine's completion step (41_commands R146). -/

namespace Sys2Proof.Machine

/-- The payload the completion stores: `payload(KEY, G^4, PT_BUF[0:L])` (R146). -/
def State.payloadOf (s : State) : List Byte := payload s.build.key (ivOfGroup s.ivGroup) s.plaintext

/-- What the completion writes (R146): `OUT_BUF[i] <- pay[i]`, OUT_LEN, and the three flags. -/
def State.storePayload (s : State) (pay : List Byte) : State :=
  { s with
    outBuf := Memory.writeBytes s.outBuf 0 pay
    outLen := BitVec.ofNat 16 pay.length
    outValid := true
    busy := false
    done := true }

/-- The completion step (R146), one atomic step (R67). -/
def State.complete (s : State) : State := s.storePayload s.payloadOf

/-- The engine is given a step: it is enabled iff BUSY = 1 (R146), and reset abandons the operation (R270, R272). -/
def State.engineStep (s : State) : State := if s.busy && !s.resetHeld then s.complete else s

end Sys2Proof.Machine
end

