-- ==== Sys2Proof/Machine/Commands.lean ====
section
/-! DEFINITION. The commands (41_commands.md), as the command words of a write to CTRL with all strobes, and WR CTRL
itself (R107). -/

namespace Sys2Proof.Machine

/-- The checks of R144, in its order: the cause of the first that fails. -/
def State.encryptCheck (s : State) : Option ErrCode :=
  if !Aes.keyLengthOk s.build.key.length then some .keySize
  else if s.build.maxPt < s.ptLen.toNat then some .lenRange
  else if s.ivSrc && !digitsLegal s.ivDigits then some .ivDigit
  else none

/-- What an accepted ENCRYPT writes before its checks: the prologue, and the old payload is invalid from here on
(R143). -/
def State.encryptPrologue (s : State) : State := { s.acknowledge with outValid := false, outLen := 0 }

/-- An accepted ENCRYPT from its group on (R143). The failure is never taken: check 3 of R144 went before. -/
def State.beginEncrypt (s : State) : State :=
  match s.makeGroup with
  | (some g, s) => { s with ivGroup := g, ivValid := true, busy := true }
  | (none, s) => s.raiseCmdError .ivDigit

/-- The issue of an accepted ENCRYPT (R143). -/
def State.issueEncrypt (s : State) : State :=
  match s.encryptPrologue.encryptCheck with
  | some code => s.encryptPrologue.raiseCmdError code
  | none => s.encryptPrologue.beginEncrypt

/-- An accepted GEN_IV (R148). -/
def State.generateIv (s : State) : State :=
  match s.acknowledge.makeGroup with
  | (some g, s) => { s with ivGroup := g, ivValid := true, done := true }
  | (none, s) => s.raiseCmdError .ivDigit

/-- An accepted CLEAR (R150). -/
def State.clearAll (s : State) : State :=
  { s.acknowledge with viol := false, outValid := false, outLen := 0, ivValid := false, ivGroup := ⟨0, 0, 0, 0⟩ }

/-- An accepted illegal command word (R151). -/
def State.illegalCommand (s : State) : State := s.acknowledge.raiseCmdError .illegalCmd

/-- NOP: nothing, and never the busy lock (R142). -/
def execNop (s : State) : Host.Outcome State Fault Refusal := .next s.writeOkay

/-- ENCRYPT (R143). -/
def execEncrypt (s : State) : Host.Outcome State Fault Refusal := .next (s.command State.issueEncrypt)

/-- GEN_IV (R148). -/
def execGenIv (s : State) : Host.Outcome State Fault Refusal := .next (s.command State.generateIv)

/-- CLEAR (R150); it cannot abort an ENCRYPT. -/
def execClear (s : State) : Host.Outcome State Fault Refusal := .next (s.command State.clearAll)

/-- A command word other than 0, 1, 2, 3 (R151). -/
def execIllegal (_c : Word) (s : State) : Host.Outcome State Fault Refusal := .next (s.command State.illegalCommand)

/-- WR CTRL: with all strobes, the command its data selects (R107, R84); otherwise a bus error and no command (R103). -/
def execWrCtrl (wdata : Word) (strb : BitVec 4) (s : State) : Host.Outcome State Fault Refusal :=
  if !fullStrobes strb then .next s.busError
  else if wdata = 0 then execNop s
  else if wdata = 1 then execEncrypt s
  else if wdata = 2 then execGenIv s
  else if wdata = 3 then execClear s
  else execIllegal wdata s

end Sys2Proof.Machine
end

