-- ==== Sys2Proof/Machine/Flags.lean ====
section
/-! DEFINITION. The status word (R26, R112), the capabilities word (R39), the interrupt output (R45). -/

namespace Sys2Proof.Machine

/-- The code of a cause (R240). -/
def ErrCode.bits : ErrCode → BitVec 4
  | .none => 0
  | .keySize => 1
  | .lenRange => 2
  | .ivDigit => 3
  | .illegalCmd => 4

/-- `BUSY | DONE<<1 | ERR<<2 | OUT_VALID<<3 | IV_VALID<<4 | VIOL<<5 | ERR_CODE<<8` (R112). -/
def State.statusWord (s : State) : Word :=
  zext1 s.busy ||| zext1 s.done <<< 1 ||| zext1 s.err <<< 2 ||| zext1 s.outValid <<< 3 ||| zext1 s.ivValid <<< 4 |||
    zext1 s.viol <<< 5 ||| s.errCode.bits.setWidth 32 <<< 8

/-- `ID` (R24). -/
def idWord : Word := 0x43424301

/-- `zext_32(KEY_LEN) | MAX_PT << 16` (R39, R122). -/
def Build.capsWord (b : Build) : Word := BitVec.ofNat 32 b.key.length ||| BitVec.ofNat 32 b.maxPt <<< 16

/-- The output `irq = STATUS.DONE and IRQ_EN.DONE_IE` (R45, R250). -/
def State.irq (s : State) : Bool := s.done && s.doneIe

/-- The block's level on interrupt line `n` of the platform: `irq` is one wire, on the build's line (R250, R251). -/
def State.irqOnLine (s : State) (n : Nat) : Bool := decide (n = s.build.irqLine) && s.irq

end Sys2Proof.Machine
end

