-- ==== Sys2Proof/Machine/RegisterReads.lean ====
section
/-! DEFINITION. Reads of the registers (40_bus_access.md §2). No read has a side effect (R68) and none is ever locked
(R104): each answers OKAY with its word. -/

namespace Sys2Proof.Machine

/-- RD ID (R105). -/
def execRdId (s : State) : Host.Outcome State Fault Refusal := .next (s.readOkay idWord)

/-- RD CTRL: always 0 (R106). -/
def execRdCtrl (s : State) : Host.Outcome State Fault Refusal := .next (s.readOkay 0)

/-- RD STATUS (R112). -/
def execRdStatus (s : State) : Host.Outcome State Fault Refusal := .next (s.readOkay s.statusWord)

/-- RD PT_LEN (R113). -/
def execRdPtLen (s : State) : Host.Outcome State Fault Refusal := .next (s.readOkay (zext16 s.ptLen))

/-- RD OUT_LEN (R114). -/
def execRdOutLen (s : State) : Host.Outcome State Fault Refusal := .next (s.readOkay (zext16 s.outLen))

/-- RD IV_CFG (R115). -/
def execRdIvCfg (s : State) : Host.Outcome State Fault Refusal := .next (s.readOkay (zext1 s.ivSrc))

/-- RD IV_DIGITS (R117). -/
def execRdIvDigits (s : State) : Host.Outcome State Fault Refusal := .next (s.readOkay (zext16 s.ivDigits))

/-- RD IRQ_EN (R119). -/
def execRdIrqEn (s : State) : Host.Outcome State Fault Refusal := .next (s.readOkay (zext1 s.doneIe))

/-- RD IV_GROUP (R121). -/
def execRdIvGroup (s : State) : Host.Outcome State Fault Refusal :=
  .next (s.readOkay (le32 s.ivGroup.b0 s.ivGroup.b1 s.ivGroup.b2 s.ivGroup.b3))

/-- RD CAPS (R122). -/
def execRdCaps (s : State) : Host.Outcome State Fault Refusal := .next (s.readOkay (Build.capsWord s.build))

end Sys2Proof.Machine
end

