-- ==== Sys2Proof/Machine/RegisterWrites.lean ====
section
/-! DEFINITION. Writes to the registers that hold state (40_bus_access.md §2). Each needs all four strobes (R103); all
but IRQ_EN are locked while BUSY (R104). Reserved bits are dropped (R44, R87). -/

namespace Sys2Proof.Machine

/-- WR PT_LEN: `reg.PT_LEN.LEN <- wdata[15:0]` (R108). -/
def execWrPtLen (wdata : Word) (strb : BitVec 4) (s : State) : Host.Outcome State Fault Refusal :=
  .next (s.writeRegister strb true fun s => { s with ptLen := low16 wdata })

/-- WR IV_CFG: `reg.IV_CFG.IV_SRC <- wdata[0]` (R116). -/
def execWrIvCfg (wdata : Word) (strb : BitVec 4) (s : State) : Host.Outcome State Fault Refusal :=
  .next (s.writeRegister strb true fun s => { s with ivSrc := bit0 wdata })

/-- WR IV_DIGITS: `reg.IV_DIGITS <- wdata[15:0]` (R118). -/
def execWrIvDigits (wdata : Word) (strb : BitVec 4) (s : State) : Host.Outcome State Fault Refusal :=
  .next (s.writeRegister strb true fun s => { s with ivDigits := low16 wdata })

/-- WR IRQ_EN: `reg.IRQ_EN.DONE_IE <- wdata[0]`, never locked (R120). -/
def execWrIrqEn (wdata : Word) (strb : BitVec 4) (s : State) : Host.Outcome State Fault Refusal :=
  .next (s.writeRegister strb false fun s => { s with doneIe := bit0 wdata })

end Sys2Proof.Machine
end

