-- ==== Sys2Proof/Machine/Dispatch.lean ====
section
/-! DEFINITION. One arm for each instruction. -/

namespace Sys2Proof.Machine

def exec (i : Instr) (s : State) : Host.Outcome State Fault Refusal :=
  match i with
  | .rdId => Sys2Proof.Machine.execRdId s
  | .wrIdRo d b => Sys2Proof.Machine.execWrIdRo d b s
  | .rdCtrl => Sys2Proof.Machine.execRdCtrl s
  | .wrCtrl d b => Sys2Proof.Machine.execWrCtrl d b s
  | .rdStatus => Sys2Proof.Machine.execRdStatus s
  | .wrStatusRo d b => Sys2Proof.Machine.execWrStatusRo d b s
  | .rdPtLen => Sys2Proof.Machine.execRdPtLen s
  | .wrPtLen d b => Sys2Proof.Machine.execWrPtLen d b s
  | .rdOutLen => Sys2Proof.Machine.execRdOutLen s
  | .wrOutLenRo d b => Sys2Proof.Machine.execWrOutLenRo d b s
  | .rdIvCfg => Sys2Proof.Machine.execRdIvCfg s
  | .wrIvCfg d b => Sys2Proof.Machine.execWrIvCfg d b s
  | .rdIvDigits => Sys2Proof.Machine.execRdIvDigits s
  | .wrIvDigits d b => Sys2Proof.Machine.execWrIvDigits d b s
  | .rdIrqEn => Sys2Proof.Machine.execRdIrqEn s
  | .wrIrqEn d b => Sys2Proof.Machine.execWrIrqEn d b s
  | .rdIvGroup => Sys2Proof.Machine.execRdIvGroup s
  | .wrIvGroupRo d b => Sys2Proof.Machine.execWrIvGroupRo d b s
  | .rdCaps => Sys2Proof.Machine.execRdCaps s
  | .wrCapsRo d b => Sys2Proof.Machine.execWrCapsRo d b s
  | .rdPtBuf j => Sys2Proof.Machine.execRdPtBuf j s
  | .wrPtBuf j d b => Sys2Proof.Machine.execWrPtBuf j d b s
  | .rdOutBuf j => Sys2Proof.Machine.execRdOutBuf j s
  | .wrOutBufRo j d b => Sys2Proof.Machine.execWrOutBufRo j d b s
  | .busErrMisalignedOdd t => Sys2Proof.Machine.execBusErrMisalignedOdd t s
  | .busErrMisalignedHalf t => Sys2Proof.Machine.execBusErrMisalignedHalf t s
  | .busErrUnmapped t => Sys2Proof.Machine.execBusErrUnmapped t s
  | .nop => Sys2Proof.Machine.execNop s
  | .encrypt => Sys2Proof.Machine.execEncrypt s
  | .genIv => Sys2Proof.Machine.execGenIv s
  | .clear => Sys2Proof.Machine.execClear s
  | .illegal c => Sys2Proof.Machine.execIllegal c s

end Sys2Proof.Machine
end

