-- ==== Sys2Proof/Machine/Step.lean ====
section
/-! DEFINITION. One step of the machine: what the head of `events` says happens. -/

namespace Sys2Proof.Machine

/-- A host transaction (R100): without effect while reset is asserted (R270), otherwise decoded and performed. -/
def hostStep (t : Transaction) (s : State) : Host.Outcome State Fault Refusal :=
  if s.resetHeld then .next s.replyUnderReset else exec (decodeBus s.build.maxPt t) s

/-- An access at a bus address: in the aperture a host transaction, outside it nothing of the block's (R63, R66). -/
def accessStep (a : Access) (s : State) : Host.Outcome State Fault Refusal :=
  match s.build.transaction a with
  | some t => hostStep t s
  | none => .next s

/-- One step (R15, R69). With nothing pending the engine completes an ENCRYPT in progress, as its fairness asks (R147;
log 9), and an idle block stays as it is. A build that breaks R9 is refused (log 15). -/
def step (s : State) : Host.Outcome State Fault Refusal :=
  if s.build.wf then
    match s.events with
    | [] => .next s.engineStep
    | .host t :: rest => hostStep t { s with events := rest }
    | .access a :: rest => accessStep a { s with events := rest }
    | .engine :: rest => .next { s with events := rest }.engineStep
    | .reset asserted :: rest => .next ({ s with events := rest }.resetInput asserted)
  else .refused .notABuild

/-- `s` with the instruction of a table row's bits as the host's next transaction, reset released: a bus row's own
transaction with write data and strobes 0, or a command word in the write to CTRL that carries it (log 17, log 18). -/
def State.withFetchWord (s : State) (nbits w : Nat) : State :=
  match encodingOfTableWord nbits w with
  | some e => { s with events := .host e.carrier :: s.events, resetHeld := false }
  | none => s

end Sys2Proof.Machine
end

