-- ==== Sys2Proof/Machine/Completion.lean ====
section
/-! DEFINITION. When an operation is complete, and its outcome (41_commands.md R152); a reset during it ends it with no
outcome (70_reset_and_hazards.md R272; log 23). -/

namespace Sys2Proof.Machine

/-- What R152 asks of a state from the write `W` of command word `c` on: for NOP and CLEAR the state right after `W`
already is complete, whatever its flags; for any other command `BUSY = 0` and `DONE = 1`. -/
def State.operationComplete (c : Word) (s : State) : Bool := c == 0 || c == 3 || (!s.busy && s.done)

/-- The next step applies the reset values: the reset input is asserted, or released after it was (R270). -/
def State.resetNext (s : State) : Bool :=
  match s.events with
  | .reset asserted :: _ => asserted || s.resetHeld
  | _ => false

/-- `t` is the state in which the operation of command word `c` is complete, `k` steps after the state `w` right after
its write: the first that meets R152's condition. R152 does not speak of a reset during the operation; after one there is
no such `t`, since R272 ends the operation with no outcome (log 23). -/
def CompletesAt (c : Word) (w : State) (k : Nat) (t : State) : Prop :=
  core.run k w = .next t ∧ t.operationComplete c = true ∧
    ∀ j, j < k → ∀ u, core.run j w = .next u → u.operationComplete c = false ∧ u.resetNext = false

/-- The outcome of a complete operation (R152). -/
structure OperationOutcome where
  /-- success iff `ERR = 0` -/
  success : Bool
  /-- the cause of a failure: `ERR_CODE` -/
  cause : ErrCode
  /-- the payload `OUT_BUF[0:OUT_LEN]` iff `OUT_VALID = 1` -/
  payload : Option (List Byte)
deriving DecidableEq, Repr

/-- The outcome as it stands in the state where an operation is complete (R152). An operation that `CompletesAt` gives
no such state has none (R272). -/
def State.operationOutcome (s : State) : OperationOutcome where
  success := !s.err
  cause := s.errCode
  payload := if s.outValid then some ((List.range s.outLen.toNat).map s.outByte) else none

end Sys2Proof.Machine
end

