-- ==== Sys2Proof/Safety.lean ====
section
/-! DEFINITION. The terms claims are made in: digit groups, the invariant of the block, what the gate hides, the
recovery of a plaintext from a payload (a law for proofs, not an operation of the block, R199). -/

namespace Sys2Proof.Machine

/-! ### IV groups -/

/-- A group made from four digits 0..9 (R173, R175). -/
def IsDigitGroup (g : Quad) : Prop :=
  ∃ d0 d1 d2 d3 : Nat, d0 ≤ 9 ∧ d1 ≤ 9 ∧ d2 ≤ 9 ∧ d3 ≤ 9 ∧ g = groupOfDigits d0 d1 d2 d3

/-! ### Safe states -/

/-- The registers and flags hold their reset values (R46). -/
def State.AtReset (s : State) : Prop :=
  s.busy = false ∧ s.done = false ∧ s.err = false ∧ s.outValid = false ∧ s.ivValid = false ∧ s.viol = false ∧
    s.errCode = .none ∧ s.ptLen = 0 ∧ s.outLen = 0 ∧ s.ivSrc = false ∧ s.ivDigits = 0 ∧ s.doneIe = false ∧
    s.ivGroup = ⟨0, 0, 0, 0⟩

/-- The invariant of the block: what the spec promises of its state between steps. -/
structure Invariant (s : State) : Prop where
  /-- the build meets R9 -/
  build : s.build.wf = true
  /-- `ERR = 1 -> DONE = 1` (R29) -/
  errDone : s.err = true → s.done = true
  /-- `ERR = 0 <-> ERR_CODE = 0` (R29) -/
  errCode : s.err = false ↔ s.errCode = .none
  /-- `ERR = 1 -> BUSY = 0` (R29) -/
  errIdle : s.err = true → s.busy = false
  /-- BUSY and DONE exclude each other (R28, R277) -/
  busyDone : s.busy = true → s.done = false
  /-- `OUT_VALID = 1 -> BUSY = 0` (R30) -/
  outIdle : s.outValid = true → s.busy = false
  /-- `OUT_VALID = 0 -> OUT_LEN = 0` (R30) -/
  outNone : s.outValid = false → s.outLen = 0
  /-- a valid payload's length: a multiple of 16 in 32..OUT_CAP (R114, R196) -/
  outLen : s.outValid = true → s.outLen.toNat % 16 = 0 ∧ 32 ≤ s.outLen.toNat ∧ s.outLen.toNat ≤ s.build.outCap
  /-- a valid payload starts with an IV `G^4` of the 10,000 (R149, R175) -/
  outIv : s.outValid = true → ∃ g, IsDigitGroup g ∧
    ∀ i, i < 16 → some (s.outByte i) = (ivOfGroup g).bytes[i]?
  /-- IV_VALID = 1: IV_GROUP is a digit group (R31, R149) -/
  ivGroup : s.ivValid = true → IsDigitGroup s.ivGroup
  /-- IV_VALID = 0: IV_GROUP is 0 (R38, R121) -/
  ivNone : s.ivValid = false → s.ivGroup = ⟨0, 0, 0, 0⟩
  /-- an operation in progress passed the checks of R144 and holds its IV (R143) -/
  busyIv : s.busy = true → s.ivValid = true
  busyLen : s.busy = true → s.ptLen.toNat ≤ s.build.maxPt
  busyKey : s.busy = true → Aes.keyLengthOk s.build.key.length = true
  /-- the buffers keep their canonical form -/
  ptBuf : Memory.wf s.build.maxPt s.ptBuf = true
  outBuf : Memory.wf s.build.outCap s.outBuf = true
  /-- while reset is asserted the registers hold their reset values (R270) -/
  held : s.resetHeld = true → s.AtReset

/-! ### What a host cannot see -/

/-- `s` with another key. -/
def State.withKey (s : State) (key : List Byte) : State := { s with build := { s.build with key := key } }

/-- Two states that differ at most in OUT_BUF bytes the gate hides: at or past OUT_LEN, or any byte while
OUT_VALID = 0 (R47, R111). -/
def SameBehindGate (s t : State) : Prop :=
  t = { s with outBuf := t.outBuf } ∧
    (s.outValid = true → ∀ i, i < s.outLen.toNat → t.outByte i = s.outByte i)

/-! ### Recovering a plaintext (R199, R200) -/

/-- `unpad(Q)`: drop as many bytes as the last byte's value (R200). -/
def unpad (q : List Byte) : List Byte := q.take (q.length - (q.getLastD 0).toNat)

/-- `Q_i = D(C_i) xor C_(i-1)`, started with `prev` (R199). -/
def cbcDecryptBlocks (d : Block → Block) : Block → List Block → List Block
  | _, [] => []
  | prev, c :: cs => (d c).xor prev :: cbcDecryptBlocks d c cs

/-- The padded string of a payload whose blocks are `pay_1 = IV, pay_2, …` (R199), `d` being the inverse of `E(K, .)`. -/
def recoverPadded (d : Block → Block) (pay : List Byte) : List Byte :=
  (cbcDecryptBlocks d (blockAt pay 0) (blocksOf pay).tail).flatMap Block.bytes

end Sys2Proof.Machine
end

