-- ==== Sys2Proof/Certificates/Slice0/Obligations.lean ====
section
/-! DEFINITION. The statements for the provers, each from a rule of spec/ (cited in OBLIGATIONS.json). An equation
`exec i s = .next { s with … }` states the result, that the instruction completes, and its whole frame: every field
not named is unchanged, both buffers included. -/

open Sys2Proof Sys2Proof.Machine

/-! ### Reads -/

/-- R105, R106: ID reads 0x43424301 and CTRL reads 0, in every state; nothing else changes. -/
def Obligations.IdAndCtrlReadsAreConstant : Prop :=
  ∀ s : State,
    exec .rdId s = .next { s with response := some ⟨.okay, some 0x43424301⟩ } ∧
    exec .rdCtrl s = .next { s with response := some ⟨.okay, some 0⟩ }

/-- R113, R115, R117, R119 (and OUT_LEN's read data): the word read is the field, zero-extended; nothing else
changes. -/
def Obligations.FieldReadsAreZeroExtended : Prop :=
  ∀ s : State,
    (∃ v : Word, exec .rdPtLen s = .next { s with response := some ⟨.okay, some v⟩ } ∧ v.toNat = s.ptLen.toNat) ∧
    (∃ v : Word, exec .rdOutLen s = .next { s with response := some ⟨.okay, some v⟩ } ∧ v.toNat = s.outLen.toNat) ∧
    (∃ v : Word, exec .rdIvCfg s = .next { s with response := some ⟨.okay, some v⟩ } ∧ v.toNat = s.ivSrc.toNat) ∧
    (∃ v : Word, exec .rdIvDigits s = .next { s with response := some ⟨.okay, some v⟩ } ∧
      v.toNat = s.ivDigits.toNat) ∧
    (∃ v : Word, exec .rdIrqEn s = .next { s with response := some ⟨.okay, some v⟩ } ∧ v.toNat = s.doneIe.toNat)

/-- R112: each flag of STATUS at its bit, ERR_CODE in bits [11:8], every other bit 0; reading clears nothing; and in
states that keep the invariant the word obeys R29 and R30. -/
def Obligations.StatusReadShowsEveryFlagAtItsBit : Prop :=
  ∀ s : State, ∃ v : Word,
    exec .rdStatus s = .next { s with response := some ⟨.okay, some v⟩ } ∧
    v.getLsbD 0 = s.busy ∧ v.getLsbD 1 = s.done ∧ v.getLsbD 2 = s.err ∧ v.getLsbD 3 = s.outValid ∧
    v.getLsbD 4 = s.ivValid ∧ v.getLsbD 5 = s.viol ∧
    (s.errCode = .none → v.extractLsb' 8 4 = 0) ∧ (s.errCode = .keySize → v.extractLsb' 8 4 = 1) ∧
    (s.errCode = .lenRange → v.extractLsb' 8 4 = 2) ∧ (s.errCode = .ivDigit → v.extractLsb' 8 4 = 3) ∧
    (s.errCode = .illegalCmd → v.extractLsb' 8 4 = 4) ∧
    (∀ k, k = 6 ∨ k = 7 ∨ 12 ≤ k → v.getLsbD k = false) ∧
    (Invariant s →
      (v.getLsbD 2 = true → v.getLsbD 1 = true ∧ v.getLsbD 0 = false) ∧
      (v.getLsbD 2 = false ↔ v.extractLsb' 8 4 = 0) ∧
      (v.getLsbD 3 = true → v.getLsbD 0 = false))

/-- R121, R60: IV_GROUP reads with byte 0 of the group in bits [7:0]. -/
def Obligations.IvGroupReadIsLittleEndian : Prop :=
  ∀ s : State, ∃ v : Word,
    exec .rdIvGroup s = .next { s with response := some ⟨.okay, some v⟩ } ∧
    v.extractLsb' 0 8 = s.ivGroup.b0 ∧ v.extractLsb' 8 8 = s.ivGroup.b1 ∧
    v.extractLsb' 16 8 = s.ivGroup.b2 ∧ v.extractLsb' 24 8 = s.ivGroup.b3

/-- R122: CAPS shows KEY_LEN and MAX_PT of every build that meets R9. -/
def Obligations.CapsReadShowsKeyLengthAndCapacity : Prop :=
  ∀ s : State, s.build.wf = true → ∃ v : Word,
    exec .rdCaps s = .next { s with response := some ⟨.okay, some v⟩ } ∧
    v.toNat = s.build.key.length + 65536 * s.build.maxPt

/-- R109: word `j` of PT_BUF, byte `4j + k` in lane `k`, also under BUSY; the read changes nothing, so a byte that
nothing wrote reads alike at every read. -/
def Obligations.PtBufReadIsTheLittleEndianWord : Prop :=
  ∀ (s : State) (j : BitVec 10), 4 * j.toNat < s.build.maxPt → ∃ v : Word,
    exec (.rdPtBuf j) s = .next { s with response := some ⟨.okay, some v⟩ } ∧
    ∀ k, k < 4 → v.extractLsb' (8 * k) 8 = s.ptByte (4 * j.toNat + k)

/-- R111, R275: a byte of OUT_BUF is shown only while OUT_VALID = 1 and below OUT_LEN; otherwise it reads 0. -/
def Obligations.OutBufReadIsGated : Prop :=
  ∀ (s : State) (j : BitVec 10), 4 * j.toNat < s.build.maxPt + 32 → ∃ v : Word,
    exec (.rdOutBuf j) s = .next { s with response := some ⟨.okay, some v⟩ } ∧
    (∀ k, k < 4 → v.extractLsb' (8 * k) 8 =
      if s.outValid = true ∧ 4 * j.toNat + k < s.outLen.toNat then s.outByte (4 * j.toNat + k) else 0) ∧
    (s.busy = true → Invariant s → v = 0)

/-- R68: no read changes anything but the answer, at any offset, mapped or not. -/
def Obligations.ReadsHaveNoSideEffect : Prop :=
  ∀ (s : State) (off : BitVec 14), ∃ r : Response,
    exec (decodeBus s.build.maxPt (.read off)) s = .next { s with response := some r }

/-! ### Writes -/

/-- R87, R108, R116, R118: a register write with all strobes while BUSY = 0 stores its field and drops the other
bits. -/
def Obligations.RegisterWritesStoreTheirField : Prop :=
  ∀ (s : State) (d : Word), s.busy = false →
    exec (.wrPtLen d 0xF) s = .next { s with ptLen := d.extractLsb' 0 16, response := some ⟨.okay, none⟩ } ∧
    exec (.wrIvCfg d 0xF) s = .next { s with ivSrc := d.getLsbD 0, response := some ⟨.okay, none⟩ } ∧
    exec (.wrIvDigits d 0xF) s = .next { s with ivDigits := d.extractLsb' 0 16, response := some ⟨.okay, none⟩ }

/-- R120: a write to IRQ_EN is never locked, and irq follows at once. -/
def Obligations.IrqEnWriteIsNeverLocked : Prop :=
  ∀ (s : State) (d : Word),
    ∃ t, exec (.wrIrqEn d 0xF) s = .next t ∧
      t = { s with doneIe := d.getLsbD 0, response := some ⟨.okay, none⟩ } ∧
      t.irq = (s.done && d.getLsbD 0) ∧
      (s.done = true → d.getLsbD 0 = true → t.irq = true)

/-- R110: a write of word `j` of PT_BUF while BUSY = 0 changes exactly the bytes whose strobe is set, to their lanes;
bytes past PT_LEN.LEN are no part of the plaintext an ENCRYPT reads. -/
def Obligations.PtBufWriteChangesExactlyTheStrobedBytes : Prop :=
  ∀ (s : State) (j : BitVec 10) (d : Word) (b : BitVec 4), s.busy = false → 4 * j.toNat < s.build.maxPt →
    ∃ t, exec (.wrPtBuf j d b) s = .next t ∧
      t = { s with ptBuf := t.ptBuf, response := some ⟨.okay, none⟩ } ∧
      (∀ k, k < 4 → t.ptByte (4 * j.toNat + k) =
        if b.getLsbD k then d.extractLsb' (8 * k) 8 else s.ptByte (4 * j.toNat + k)) ∧
      (∀ i, i < 4 * j.toNat ∨ 4 * j.toNat + 4 ≤ i → t.ptByte i = s.ptByte i) ∧
      (∀ i, t.outByte i = s.outByte i) ∧
      (b = 0 → t.ptBuf = s.ptBuf) ∧
      (s.ptLen.toNat ≤ 4 * j.toNat → t.plaintext = s.plaintext)

/-- R103: writes to read-only places, with any strobes, and register writes without all four strobes are bus errors
that change nothing, BUSY or not. -/
def Obligations.ReadOnlyAndPartialWritesAreBusErrors : Prop :=
  ∀ (s : State) (d : Word) (b : BitVec 4) (j : BitVec 10),
    (exec (.wrIdRo d b) s = .next { s with response := some ⟨.slverr, some 0⟩ } ∧
      exec (.wrStatusRo d b) s = .next { s with response := some ⟨.slverr, some 0⟩ } ∧
      exec (.wrOutLenRo d b) s = .next { s with response := some ⟨.slverr, some 0⟩ } ∧
      exec (.wrIvGroupRo d b) s = .next { s with response := some ⟨.slverr, some 0⟩ } ∧
      exec (.wrCapsRo d b) s = .next { s with response := some ⟨.slverr, some 0⟩ } ∧
      exec (.wrOutBufRo j d b) s = .next { s with response := some ⟨.slverr, some 0⟩ }) ∧
    (b ≠ 0xF →
      exec (.wrCtrl d b) s = .next { s with response := some ⟨.slverr, some 0⟩ } ∧
      exec (.wrPtLen d b) s = .next { s with response := some ⟨.slverr, some 0⟩ } ∧
      exec (.wrIvCfg d b) s = .next { s with response := some ⟨.slverr, some 0⟩ } ∧
      exec (.wrIvDigits d b) s = .next { s with response := some ⟨.slverr, some 0⟩ } ∧
      exec (.wrIrqEn d b) s = .next { s with response := some ⟨.slverr, some 0⟩ })

/-- R101, R102: a transaction to a misaligned offset, or to an aligned one outside the registers and the two buffers,
is a bus error that changes nothing, and so is each instruction that names one; a read of any other offset, in a build
that meets R9, is OKAY (R100, R105 to R122). -/
def Obligations.MisalignedAndUnmappedAreBusErrors : Prop :=
  ∀ (s : State) (t : Transaction),
    (t.off.toNat % 4 ≠ 0 →
      exec (decodeBus s.build.maxPt t) s = .next { s with response := some ⟨.slverr, some 0⟩ }) ∧
    (t.off.toNat % 4 = 0 → 0x028 ≤ t.off.toNat →
      (t.off.toNat < 0x1000 ∨ 0x1000 + s.build.maxPt ≤ t.off.toNat) →
      (t.off.toNat < 0x2000 ∨ 0x2000 + (s.build.maxPt + 32) ≤ t.off.toNat) →
      exec (decodeBus s.build.maxPt t) s = .next { s with response := some ⟨.slverr, some 0⟩ }) ∧
    (∀ off : BitVec 14, t = .read off → off.toNat % 4 = 0 → s.build.wf = true →
      (off.toNat < 0x028 ∨ (0x1000 ≤ off.toNat ∧ off.toNat < 0x1000 + s.build.maxPt) ∨
        (0x2000 ≤ off.toNat ∧ off.toNat < 0x2000 + (s.build.maxPt + 32))) →
      ∃ v : Word, exec (decodeBus s.build.maxPt t) s = .next { s with response := some ⟨.okay, some v⟩ }) ∧
    (t.off.toNat % 2 = 1 → exec (.busErrMisalignedOdd t) s = .next { s with response := some ⟨.slverr, some 0⟩ }) ∧
    (t.off.toNat % 4 = 2 → exec (.busErrMisalignedHalf t) s = .next { s with response := some ⟨.slverr, some 0⟩ }) ∧
    (t.off.toNat % 4 = 0 → 0x028 ≤ t.off.toNat →
      (t.off.toNat < 0x1000 ∨ 0x1000 + s.build.maxPt ≤ t.off.toNat) →
      (t.off.toNat < 0x2000 ∨ 0x2000 + (s.build.maxPt + 32) ≤ t.off.toNat) →
      exec (.busErrUnmapped t) s = .next { s with response := some ⟨.slverr, some 0⟩ })

/-- R104: while BUSY a nonzero command, a write to PT_LEN, IV_CFG or IV_DIGITS, and a write to any PT_BUF word with any
strobes only set VIOL and are answered OKAY; NOP, IRQ_EN and reads are not locked. -/
def Obligations.BusyLockSetsViolAndNothingElse : Prop :=
  ∀ s : State, s.busy = true →
    (∀ (off : BitVec 14) (d : Word),
      ((off = 0x004 ∧ d ≠ 0) ∨ off = 0x00C ∨ off = 0x014 ∨ off = 0x018) →
      exec (decodeBus s.build.maxPt (.write off d 0xF)) s =
        .next { s with viol := true, response := some ⟨.okay, none⟩ }) ∧
    (∀ (off : BitVec 14) (d : Word) (b : BitVec 4),
      off.toNat % 4 = 0 → 0x1000 ≤ off.toNat → off.toNat < 0x1000 + s.build.maxPt → off.toNat < 0x2000 →
      exec (decodeBus s.build.maxPt (.write off d b)) s =
        .next { s with viol := true, response := some ⟨.okay, none⟩ }) ∧
    exec (decodeBus s.build.maxPt (.write 0x004 0 0xF)) s = .next { s with response := some ⟨.okay, none⟩ } ∧
    (∀ d : Word, exec (decodeBus s.build.maxPt (.write 0x01C d 0xF)) s =
      .next { s with doneIe := d.getLsbD 0, response := some ⟨.okay, none⟩ }) ∧
    (∀ off : BitVec 14, ∃ t, exec (decodeBus s.build.maxPt (.read off)) s = .next t ∧ t.viol = s.viol)

/-! ### Commands -/

/-- R142: NOP changes nothing, at any time. -/
def Obligations.NopChangesNothing : Prop :=
  ∀ s : State,
    exec .nop s = .next { s with response := some ⟨.okay, none⟩ } ∧
    exec (.wrCtrl 0 0xF) s = .next { s with response := some ⟨.okay, none⟩ } ∧
    (∀ b : BitVec 4, b ≠ 0xF → exec (.wrCtrl 0 b) s = .next { s with response := some ⟨.slverr, some 0⟩ })

/-- R84, R107: a write to CTRL with all strobes performs the command its whole word selects, and is answered OKAY
whether the command is legal, fails or is ignored. -/
def Obligations.CtrlWritePerformsItsCommand : Prop :=
  (decodeCommand 0 = .nop ∧ decodeCommand 1 = .encrypt ∧ decodeCommand 2 = .genIv ∧ decodeCommand 3 = .clear ∧
    ∀ c : Word, 4 ≤ c.toNat → decodeCommand c = .illegal c) ∧
  ∀ (s : State) (c : Word),
    (∃ t, exec (.wrCtrl c 0xF) s = .next t ∧ exec (decodeCommand c) s = .next t ∧
      t.response = some ⟨.okay, none⟩) ∧
    ∀ b : BitVec 4, b ≠ 0xF → exec (.wrCtrl c b) s = .next { s with response := some ⟨.slverr, some 0⟩ }

/-- R140: while BUSY every command but NOP, any other word being the illegal command's, is ignored with VIOL. -/
def Obligations.CommandsWhileBusyAreIgnored : Prop :=
  ∀ (s : State) (c : Word), s.busy = true →
    exec .encrypt s = .next { s with viol := true, response := some ⟨.okay, none⟩ } ∧
    exec .genIv s = .next { s with viol := true, response := some ⟨.okay, none⟩ } ∧
    exec .clear s = .next { s with viol := true, response := some ⟨.okay, none⟩ } ∧
    (4 ≤ c.toNat → exec (.illegal c) s = .next { s with viol := true, response := some ⟨.okay, none⟩ })

/-- R143, R174: an ENCRYPT that passes its checks makes its group (from IV_DIGITS, or by four draws), invalidates the
old payload and sets BUSY. The form of the draws, `Config.drawnDigit` and `fresh`, is the model's (log 7). -/
def Obligations.AcceptedEncryptBeginsTheOperation : Prop :=
  ∀ s : State, s.busy = false →
    (s.build.key.length = 16 ∨ s.build.key.length = 24 ∨ s.build.key.length = 32) →
    s.ptLen.toNat ≤ s.build.maxPt →
    (s.ivSrc = true → ∀ k, k < 4 → s.ivDigits.toNat / 16 ^ k % 16 ≤ 9) →
    exec .encrypt s = .next { s with
      busy := true, done := false, err := false, errCode := .none, outValid := false, outLen := 0, ivValid := true
      ivGroup :=
        if s.ivSrc then
          ⟨BitVec.ofNat 8 (0x30 + s.ivDigits.toNat % 16), BitVec.ofNat 8 (0x30 + s.ivDigits.toNat / 16 % 16),
            BitVec.ofNat 8 (0x30 + s.ivDigits.toNat / 256 % 16), BitVec.ofNat 8 (0x30 + s.ivDigits.toNat / 4096 % 16)⟩
        else
          ⟨BitVec.ofNat 8 (0x30 + (Config.drawnDigit s.fresh).val),
            BitVec.ofNat 8 (0x30 + (Config.drawnDigit (s.fresh + 1)).val),
            BitVec.ofNat 8 (0x30 + (Config.drawnDigit (s.fresh + 2)).val),
            BitVec.ofNat 8 (0x30 + (Config.drawnDigit (s.fresh + 3)).val)⟩
      fresh := if s.ivSrc then s.fresh else s.fresh + 4
      response := some ⟨.okay, none⟩ }

/-- R144, R241, R242: the first failing check of an ENCRYPT gives the one code; nothing is drawn, BUSY stays 0, IV_GROUP
and IV_VALID stay, and no payload is readable any more. -/
def Obligations.FirstFailingCheckDecidesTheCode : Prop :=
  ∀ (s : State) (code : ErrCode), s.busy = false →
    ((¬(s.build.key.length = 16 ∨ s.build.key.length = 24 ∨ s.build.key.length = 32) ∧ code = .keySize) ∨
      ((s.build.key.length = 16 ∨ s.build.key.length = 24 ∨ s.build.key.length = 32) ∧
        s.build.maxPt < s.ptLen.toNat ∧ code = .lenRange) ∨
      ((s.build.key.length = 16 ∨ s.build.key.length = 24 ∨ s.build.key.length = 32) ∧
        s.ptLen.toNat ≤ s.build.maxPt ∧ s.ivSrc = true ∧ (∃ k, k < 4 ∧ 9 < s.ivDigits.toNat / 16 ^ k % 16) ∧
        code = .ivDigit)) →
    ∃ t, exec .encrypt s = .next t ∧
      t = { s with done := true, err := true, errCode := code, outValid := false, outLen := 0,
                   response := some ⟨.okay, none⟩ } ∧
      ∀ i, t.gatedOutByte i = 0

/-- R148: GEN_IV makes a group without looking at the key, or fails with IV_DIGIT and keeps the old group; it touches
nothing of the output. The form of the draws, `Config.drawnDigit` and `fresh`, is the model's (log 7). -/
def Obligations.GenIvMakesAGroupOrFails : Prop :=
  ∀ s : State, s.busy = false →
    (s.ivSrc = true → (∀ k, k < 4 → s.ivDigits.toNat / 16 ^ k % 16 ≤ 9) →
      exec .genIv s = .next { s with
        done := true, err := false, errCode := .none, ivValid := true
        ivGroup :=
          ⟨BitVec.ofNat 8 (0x30 + s.ivDigits.toNat % 16), BitVec.ofNat 8 (0x30 + s.ivDigits.toNat / 16 % 16),
            BitVec.ofNat 8 (0x30 + s.ivDigits.toNat / 256 % 16), BitVec.ofNat 8 (0x30 + s.ivDigits.toNat / 4096 % 16)⟩
        response := some ⟨.okay, none⟩ }) ∧
    (s.ivSrc = false →
      exec .genIv s = .next { s with
        done := true, err := false, errCode := .none, ivValid := true
        ivGroup :=
          ⟨BitVec.ofNat 8 (0x30 + (Config.drawnDigit s.fresh).val),
            BitVec.ofNat 8 (0x30 + (Config.drawnDigit (s.fresh + 1)).val),
            BitVec.ofNat 8 (0x30 + (Config.drawnDigit (s.fresh + 2)).val),
            BitVec.ofNat 8 (0x30 + (Config.drawnDigit (s.fresh + 3)).val)⟩
        fresh := s.fresh + 4
        response := some ⟨.okay, none⟩ }) ∧
    (s.ivSrc = true → (∃ k, k < 4 ∧ 9 < s.ivDigits.toNat / 16 ^ k % 16) →
      exec .genIv s = .next { s with
        done := true, err := true, errCode := .ivDigit, response := some ⟨.okay, none⟩ })

/-- R150: CLEAR clears the status and the outputs and leaves the operands; STATUS then reads 0 and irq is 0; it cannot
abort an ENCRYPT. -/
def Obligations.ClearClearsStatusAndOutputs : Prop :=
  ∀ s : State,
    (s.busy = false → ∃ t, exec .clear s = .next t ∧
      t = { s with done := false, err := false, errCode := .none, viol := false, outValid := false, outLen := 0,
                   ivValid := false, ivGroup := ⟨0, 0, 0, 0⟩, response := some ⟨.okay, none⟩ } ∧
      t.statusWord = 0 ∧ t.irq = false) ∧
    (s.busy = true → exec .clear s = .next { s with viol := true, response := some ⟨.okay, none⟩ })

/-- R151: an illegal command word fails with ILLEGAL_CMD and changes nothing else; all 32 bits of a word are compared. -/
def Obligations.IllegalCommandFails : Prop :=
  ∀ (s : State) (c : Word), s.busy = false → 4 ≤ c.toNat →
    exec (.illegal c) s = .next { s with
      done := true, err := true, errCode := .illegalCmd, response := some ⟨.okay, none⟩ } ∧
    exec (.wrCtrl c 0xF) s = .next { s with
      done := true, err := true, errCode := .illegalCmd, response := some ⟨.okay, none⟩ }

/-- R171, R172: digits are drawn, four at a time, only by an accepted ENCRYPT or GEN_IV with IV_SRC = 0. The form of
the draws, `Config.drawnDigit` and `fresh`, is the model's (log 7). -/
def Obligations.DigitsAreDrawnOnlyToMakeAGroup : Prop :=
  ∀ (i : Instr) (s t : State), exec i s = .next t →
    t.fresh = s.fresh ∨
    (t.fresh = s.fresh + 4 ∧ s.busy = false ∧ s.ivSrc = false ∧
      (i = .encrypt ∨ i = .genIv ∨ i = .wrCtrl 1 0xF ∨ i = .wrCtrl 2 0xF) ∧
      t.ivGroup.b0.toNat = 0x30 + (Config.drawnDigit s.fresh).val ∧
      t.ivGroup.b1.toNat = 0x30 + (Config.drawnDigit (s.fresh + 1)).val ∧
      t.ivGroup.b2.toNat = 0x30 + (Config.drawnDigit (s.fresh + 2)).val ∧
      t.ivGroup.b3.toNat = 0x30 + (Config.drawnDigit (s.fresh + 3)).val)

/-! ### The engine -/

/-- R146: given its step while BUSY, the engine stores the payload of the key, the group and the plaintext in OUT_BUF,
byte by byte, sets OUT_LEN to `16 + 16*(L div 16) + 16`, and ends the operation; nothing else changes. While BUSY = 0 it
is not enabled. That a step is the engine's is said by the model's event list (log 2), and that an engine event while
BUSY = 0 passes without effect is the model's choice (log 9). -/
def Obligations.CompletionStoresThePayload : Prop :=
  ∀ (s : State) (rest : List Event), s.build.wf = true → s.events = .engine :: rest →
    (s.busy = false → step s = .next { s with events := rest }) ∧
    (s.busy = true → s.resetHeld = false → s.ptLen.toNat ≤ s.build.maxPt → ∃ t, step s = .next t ∧
      t = { s with busy := false, done := true, outValid := true, outLen := t.outLen, outBuf := t.outBuf,
                   events := rest } ∧
      t.outLen.toNat = 16 + 16 * (s.ptLen.toNat / 16) + 16 ∧
      (∀ i, i < t.outLen.toNat → some (t.outByte i) =
        (payload s.build.key ⟨s.ivGroup, s.ivGroup, s.ivGroup, s.ivGroup⟩
          ((List.range s.ptLen.toNat).map s.ptByte))[i]?) ∧
      (∀ i, t.outLen.toNat ≤ i → t.outByte i = s.outByte i) ∧
      (∀ i, t.ptByte i = s.ptByte i))

/-- R147 (the model's fairness, log 9): from a state that is BUSY, with no reset pending, the machine completes the
ENCRYPT within as many steps as there are events pending, plus one. -/
def Obligations.BusyAlwaysEnds : Prop :=
  ∀ s : State, s.build.wf = true → s.busy = true → s.resetHeld = false →
    (∀ e ∈ s.events, ∀ a, e ≠ .reset a) →
    ∃ k t, k ≤ s.events.length + 1 ∧ core.run k s = .next t ∧ t.busy = false ∧ t.done = true ∧ t.outValid = true ∧
      t.outBuf = s.complete.outBuf

/-- R284, R146, R272: only the completion, which leaves a valid payload, or reset ends BUSY; no host transaction does. -/
def Obligations.OnlyCompletionOrResetEndsBusy : Prop :=
  ∀ s t : State, step s = .next t → s.busy = true → t.busy = false →
    (∃ rest, s.events = .reset true :: rest) ∨
    (∃ rest, s.events = .reset false :: rest ∧ s.resetHeld = true) ∨
    ((s.events = [] ∨ ∃ rest, s.events = .engine :: rest) ∧ t.done = true ∧ t.outValid = true)

/-- R145: from the issue to the completion no step but a reset changes PT_LEN, PT_BUF, IV_CFG, IV_DIGITS, IV_GROUP or
the key; the completion stores the payload of those values. -/
def Obligations.OperandsAreStableWhileBusy : Prop :=
  ∀ s t : State, step s = .next t → s.busy = true → (∀ a rest, s.events ≠ .reset a :: rest) →
    t.ptLen = s.ptLen ∧ (∀ i, t.ptByte i = s.ptByte i) ∧ t.ivSrc = s.ivSrc ∧ t.ivDigits = s.ivDigits ∧
    t.ivGroup = s.ivGroup ∧ t.build = s.build ∧ t.payloadOf = s.payloadOf

/-- R278, R145: a locked write and the completion in either order: both orders store the same payload. (The order is
the event list's, log 2.) -/
def Obligations.CompletionRaceKeepsThePayload : Prop :=
  ∀ (s a b : State) (i : Instr), s.busy = true →
    ((∃ d m, i = .wrPtLen d m) ∨ (∃ d m, i = .wrIvCfg d m) ∨ (∃ d m, i = .wrIvDigits d m) ∨
      (∃ j d m, i = .wrPtBuf j d m)) →
    exec i s = .next a → exec i s.complete = .next b →
    a.complete.outBuf = b.outBuf ∧ a.complete.outLen = b.outLen ∧ a.complete.outValid = b.outValid ∧
    a.complete.statusWord ||| 0x20 = b.statusWord ||| 0x20

/-- R279, R281: bytes of PT_BUF at or past PT_LEN.LEN are never read: two states that differ only there complete with
the same output. -/
def Obligations.BytesPastTheLengthAreIgnored : Prop :=
  ∀ (s : State) (m : Memory), (∀ i, i < s.ptLen.toNat → { s with ptBuf := m }.ptByte i = s.ptByte i) →
    { s with ptBuf := m }.complete = { s.complete with ptBuf := m }

/-! ### Padding, CBC, payload -/

/-- R192: between 1 and 16 bytes of padding, each of the value of their number; the padded length is the smallest
multiple of 16 above the plaintext's. -/
def Obligations.PadAddsItsOwnCount : Prop :=
  ∀ p : List Byte,
    (pad p).length = 16 * (p.length / 16) + 16 ∧
    (pad p).length % 16 = 0 ∧ p.length < (pad p).length ∧ (∀ n, n % 16 = 0 → p.length < n → (pad p).length ≤ n) ∧
    (pad p).take p.length = p ∧
    ∀ b ∈ (pad p).drop p.length, b.toNat = 16 - p.length % 16 ∧ 1 ≤ b.toNat ∧ b.toNat ≤ 16

/-- R200: the last byte of a padded string counts the padding, and removing that many bytes gives the plaintext back. -/
def Obligations.UnpadInvertsPad : Prop :=
  ∀ p : List Byte,
    1 ≤ ((pad p).getLastD 0).toNat ∧ ((pad p).getLastD 0).toNat ≤ 16 ∧
    (∀ b ∈ (pad p).drop ((pad p).length - ((pad p).getLastD 0).toNat), b = (pad p).getLastD 0) ∧
    unpad (pad p) = p

/-- R194: block `i` of the ciphertext is E of the padded block xor the ciphertext block before it, the IV standing in
before the first. -/
def Obligations.CbcBlocksFollowTheChain : Prop :=
  ∀ (k : List Byte) (iv : Block) (q : List Byte) (i : Nat), q.length % 16 = 0 → i < q.length / 16 →
    (cbcEncrypt k iv q).length = q.length ∧
    blockAt (cbcEncrypt k iv q) i =
      Aes.blockEnc k ((blockAt q i).xor (if i = 0 then iv else blockAt (cbcEncrypt k iv q) (i - 1)))

/-- R196, R197: the payload is the 16 IV bytes and then the ciphertext; its length is `32 + 16*(L div 16)`, which is
OUT_CAP for a full buffer. -/
def Obligations.PayloadLengthAndLayout : Prop :=
  ∀ (k : List Byte) (iv : Block) (p : List Byte),
    (payload k iv p).length = 32 + 16 * (p.length / 16) ∧ (payload k iv p).length % 16 = 0 ∧
    (payload k iv p).length = 16 + (pad p).length ∧
    (payload k iv p).take 16 = iv.bytes ∧ blockAt (payload k iv p) 0 = iv ∧
    (payload k iv p).drop 16 = cbcEncrypt k iv (pad p) ∧
    (∀ b : Build, b.wf = true → p.length = b.maxPt → (payload k iv p).length = b.outCap)

/-- R201: the first `j` blocks of a ciphertext depend on the first `j` blocks of the padded string only; plaintexts
that agree on their first `16 j` bytes, both longer than that, have payloads that agree on their first `16 + 16 j` bytes
under one key and IV. -/
def Obligations.PayloadPrefixProperty : Prop :=
  ∀ (k : List Byte) (iv : Block) (p p' : List Byte) (j : Nat), p.take (16 * j) = p'.take (16 * j) →
    (p.length % 16 = 0 → p'.length % 16 = 0 →
      (cbcEncrypt k iv p).take (16 * j) = (cbcEncrypt k iv p').take (16 * j)) ∧
    (16 * j < p.length → 16 * j < p'.length →
      (payload k iv p).take (16 + 16 * j) = (payload k iv p').take (16 + 16 * j))

/-- R210: for each key of an accepted length the block transform is a permutation of the blocks. That the transform is
AES is the spec's general knowledge (log 11). -/
def Obligations.BlockTransformIsAPermutation : Prop :=
  ∀ k : List Byte, (k.length = 16 ∨ k.length = 24 ∨ k.length = 32) → Function.Bijective (Aes.blockEnc k)

/-- R199: undoing E and the chaining on the payload's blocks and removing the padding gives the plaintext back. It
rests on E being a permutation, here AES (log 11). -/
def Obligations.PayloadRoundTrip : Prop :=
  ∀ (k : List Byte) (iv : Block) (p : List Byte), (k.length = 16 ∨ k.length = 24 ∨ k.length = 32) →
    unpad (recoverPadded (Function.invFun (Aes.blockEnc k)) (payload k iv p)) = p

/-! ### The block transform: AES, the spec's general knowledge (log 11) -/

/-- R214, R215, R216: `inv` is the field's inverse, and the S-box table equals the formula at every entry. -/
def Obligations.SboxTableIsTheFormula : Prop :=
  ∀ a : Byte, Aes.sbox a = Aes.sboxFormula a ∧ (a ≠ 0 → Aes.mul a (Aes.inv a) = 1) ∧ (a = 0 → Aes.inv a = 0)

/-- R218, R217: the words of the key schedule: the key's own first, then each from the word before it and the word `Nk`
before it; `4 (Nr + 1)` of them. -/
def Obligations.KeyScheduleRecurrence : Prop :=
  ∀ (nk : Nat) (k : List Byte), (nk = 4 ∨ nk = 6 ∨ nk = 8) → k.length = 4 * nk →
    (Aes.keyExpansion nk k).length = 4 * (nk + 7) ∧
    (∀ i, i < nk → (Aes.keyExpansion nk k)[i]? =
      some ⟨k.getD (4 * i) 0, k.getD (4 * i + 1) 0, k.getD (4 * i + 2) 0, k.getD (4 * i + 3) 0⟩) ∧
    ∀ i (t w : Quad), nk ≤ i → i < 4 * (nk + 7) →
      (Aes.keyExpansion nk k)[i - 1]? = some t → (Aes.keyExpansion nk k)[i - nk]? = some w →
      (Aes.keyExpansion nk k)[i]? = some (w.xor
        (if i % nk = 0 then
          (Quad.map Aes.sbox ⟨t.b1, t.b2, t.b3, t.b0⟩).xor ⟨Aes.xtimes (i / nk - 1) 1, 0, 0, 0⟩
        else if nk = 8 ∧ i % 8 = 4 then Quad.map Aes.sbox t else t))

/-- R220, R221, R212: ShiftRows rotates row `r` left by `r`, byte `r + 4c` of the string being row `r`, column `c`; and
MixColumns is the field product with the spec's matrix, `mul` being R213's. -/
def Obligations.RoundFunctionsMatchTheMatrixForm : Prop :=
  (∀ (s : Block) (r c : Nat), r < 4 → c < 4 →
    (Aes.shiftRows s).bytes[r + 4 * c]? = s.bytes[r + 4 * ((c + r) % 4)]?) ∧
  (∀ a : Quad,
    (Aes.mixColumn a).b0 = Aes.mul 2 a.b0 ^^^ Aes.mul 3 a.b1 ^^^ a.b2 ^^^ a.b3 ∧
    (Aes.mixColumn a).b1 = a.b0 ^^^ Aes.mul 2 a.b1 ^^^ Aes.mul 3 a.b2 ^^^ a.b3 ∧
    (Aes.mixColumn a).b2 = a.b0 ^^^ a.b1 ^^^ Aes.mul 2 a.b2 ^^^ Aes.mul 3 a.b3 ∧
    (Aes.mixColumn a).b3 = Aes.mul 3 a.b0 ^^^ a.b1 ^^^ a.b2 ^^^ Aes.mul 2 a.b3)

/-! ### The IV space -/

/-- R175: an IV has 16 bytes, its four groups are equal, each byte of the group is an ASCII digit, and there are exactly
10,000 of them. -/
def Obligations.IvSpaceHasTenThousandMembers : Prop :=
  (∀ g : Quad, IsDigitGroup g →
    (ivOfGroup g).bytes.length = 16 ∧
    (∀ i, i < 16 → (ivOfGroup g).bytes[i]? = (ivOfGroup g).bytes[i % 4]?) ∧
    ∀ b ∈ (ivOfGroup g).bytes, 0x30 ≤ b.toNat ∧ b.toNat ≤ 0x39) ∧
  Set.ncard {iv : Block | ∃ g : Quad, IsDigitGroup g ∧ iv = ivOfGroup g} = 10000

/-- R149, R171, R172: every group an instruction newly holds in IV_GROUP is a digit group, unless CLEAR zeroed it. -/
def Obligations.EveryGroupMadeIsADigitGroup : Prop :=
  ∀ (i : Instr) (s t : State), exec i s = .next t → t.ivGroup ≠ s.ivGroup →
    (IsDigitGroup t.ivGroup ∧ t.ivValid = true ∧
      (i = .encrypt ∨ i = .genIv ∨ i = .wrCtrl 1 0xF ∨ i = .wrCtrl 2 0xF)) ∨
    (t.ivGroup = ⟨0, 0, 0, 0⟩ ∧ t.ivValid = false ∧ (i = .clear ∨ i = .wrCtrl 3 0xF))

/-! ### Whole-machine rules -/

/-- R123: every transaction completes in its step with OKAY or SLVERR, whatever the engine is doing. -/
def Obligations.EveryTransactionIsAnswered : Prop :=
  ∀ (s : State) (t : Transaction), ∃ u r, exec (decodeBus s.build.maxPt t) s = .next u ∧
    u.response = some r ∧ (r.resp = .okay ∨ r.resp = .slverr) ∧ (s.busy = true → u.busy = true)

/-- The invariant (R29, R30, R31, R38, R143, R149, R270 and the form of the buffers) is kept by every step. -/
def Obligations.InvariantIsKeptByEveryStep : Prop :=
  ∀ s t : State, Invariant s → step s = .next t → Invariant t

/-- The invariant holds at reset. -/
def Obligations.InvariantHoldsAtReset : Prop := Invariant State.reset

/-- R40: nothing but a host write changes PT_BUF: no instruction but a word write while BUSY = 0, which reaches only the
four bytes of its word, and no engine step. -/
def Obligations.OnlyHostWritesChangePtBuf : Prop :=
  (∀ (i : Instr) (s t : State) (k : Nat), exec i s = .next t → t.ptByte k ≠ s.ptByte k →
    ∃ j d b, i = .wrPtBuf j d b ∧ s.busy = false ∧ 4 * j.toNat < s.build.maxPt ∧
      4 * j.toNat ≤ k ∧ k < 4 * j.toNat + 4) ∧
  (∀ (s : State) (k : Nat), s.engineStep.ptByte k = s.ptByte k)

/-- R41: no instruction changes a byte of OUT_BUF; a step that changes one is a completion or a reset. -/
def Obligations.OnlyCompletionChangesOutBuf : Prop :=
  (∀ (i : Instr) (s t : State) (k : Nat), exec i s = .next t → t.outByte k = s.outByte k) ∧
  (∀ (s t : State) (k : Nat), step s = .next t → t.outByte k ≠ s.outByte k →
    (s.busy = true ∧ t.busy = false ∧ t.outValid = true) ∨ ∃ a rest, s.events = .reset a :: rest)

/-- R30: OUT_VALID rises only in a completion, which stores the whole payload in the same step; no instruction raises
it, and one that leaves it at 1 leaves OUT_LEN alone. Where PT_LEN is above MAX_PT, in BUSY states that no run reaches,
OUT_LEN is the payload's length cut off where 16 bits do not hold it (log 22). -/
def Obligations.OutValidRisesOnlyAtCompletion : Prop :=
  (∀ (i : Instr) (s t : State), exec i s = .next t → t.outValid = true →
    s.outValid = true ∧ t.outLen = s.outLen) ∧
  (∀ s t : State, step s = .next t → s.outValid = false → t.outValid = true →
    s.busy = true ∧ t.busy = false ∧ t.done = true ∧ t.outLen = BitVec.ofNat 16 s.payloadOf.length ∧
    ∀ i (h : i < s.payloadOf.length), t.outByte i = s.payloadOf[i])

/-- R32: VIOL is set only by a write ignored under BUSY and cleared only by CLEAR (or reset). -/
def Obligations.ViolIsSticky : Prop :=
  (∀ (i : Instr) (s t : State), exec i s = .next t →
    (s.viol = false → t.viol = true → s.busy = true ∧ t = { s with viol := true, response := t.response }) ∧
    (s.viol = true → t.viol = false → s.busy = false ∧ (i = .clear ∨ i = .wrCtrl 3 0xF))) ∧
  (∀ s t : State, step s = .next t → s.viol = true → t.viol = false →
    (∃ x rest, s.events = .host x :: rest) ∨ (∃ a rest, s.events = .access a :: rest) ∨
      ∃ a rest, s.events = .reset a :: rest)

/-- R250: irq is a level, DONE and DONE_IE; an instruction raises it only by completing a command or by enabling it, and
a completion raises it whenever it is enabled. -/
def Obligations.IrqRisesOnlyWithDoneOrEnable : Prop :=
  (∀ (i : Instr) (s t : State), exec i s = .next t → s.irq = false → t.irq = true →
    (s.doneIe = true ∧ s.busy = false ∧ t.done = true ∧
      (i = .encrypt ∨ i = .genIv ∨ (∃ c, i = .illegal c) ∨ ∃ c, c ≠ 0 ∧ i = .wrCtrl c 0xF)) ∨
    (s.done = true ∧ ∃ d, d.getLsbD 0 = true ∧ i = .wrIrqEn d 0xF)) ∧
  (∀ s : State, s.complete.irq = s.doneIe)

/-- R42, R256: the key (log 1) never reaches the bus: with another key of the same length every instruction gives the
same answer and the same state but for the key. For an ENCRYPT or GEN_IV with IV_SRC = 0 that compares two draws at one
`fresh`, which the model makes alike (log 7). -/
def Obligations.KeyNeverReachesTheBus : Prop :=
  ∀ (i : Instr) (s : State) (key : List Byte), key.length = s.build.key.length →
    ∃ t, exec i s = .next t ∧ exec i (s.withKey key) = .next (t.withKey key)

/-- R47, R41: states that differ only in OUT_BUF bytes behind the gate (log 6) stay so under every step, and answer
every transaction alike. The two have one `fresh` and one `epoch`, so the model gives them the same drawn digits (log 7),
the same answers under reset (log 10) and the same unwritten PT_BUF bytes (log 5). -/
def Obligations.GateHidesStaleBytes : Prop :=
  ∀ s s' t : State, SameBehindGate s s' → step s = .next t →
    ∃ t', step s' = .next t' ∧ SameBehindGate t t' ∧ t'.response = t.response ∧ t'.irq = t.irq

/-! ### Decoding and stepping -/

/-- R80 to R85: decoding an encoded well-formed instruction gives it back, every operand at every value. -/
def Obligations.DecodeInvertsEncode : Prop :=
  ∀ (maxPt : Nat) (i : Instr), i.wf maxPt = true → decode maxPt (encode i) = i

/-- R82, R84: every transaction and every command word has one meaning, which keeps all its bits, is well formed and
fits its row of the opcode table. -/
def Obligations.EncodeInvertsDecode : Prop :=
  ∀ (maxPt : Nat) (e : Encoding),
    encode (decode maxPt e) = e ∧ (maxPt ≤ 4064 → (decode maxPt e).wf maxPt = true) ∧
    (maxPt ≤ 4064 → (decode maxPt e).row.fits e.tableBits = true)

/-- R82, R84: a few keys and words, written out from the tables, decode to their instructions in the default build
(as `decodeTableWord` lays them out, log 17). -/
def Obligations.SomeKeysDecodeAsTheTableSays : Prop :=
  decodeTableWord 16 0x0000 = some .rdId ∧ decodeTableWord 16 0x4004 = some (.wrCtrl 0 0) ∧
  decodeTableWord 16 0x0008 = some .rdStatus ∧ decodeTableWord 16 0x400C = some (.wrPtLen 0 0) ∧
  decodeTableWord 16 0x13FC = some (.rdPtBuf 255) ∧ decodeTableWord 16 0x1400 = some (.busErrUnmapped (.read 0x1400)) ∧
  decodeTableWord 16 0x241C = some (.rdOutBuf 263) ∧ decodeTableWord 16 0x5004 = some (.wrPtBuf 1 0 0) ∧
  decodeTableWord 16 0x0009 = some (.busErrMisalignedOdd (.read 9)) ∧
  decodeTableWord 16 0x4006 = some (.busErrMisalignedHalf (.write 6 0 0)) ∧
  decodeTableWord 32 0x00000001 = some .encrypt ∧ decodeTableWord 32 0x00000101 = some (.illegal 0x101)

/-- R100: when a transaction is next and reset is released, the step takes it off the list and is `exec` of the decoded
instruction, which is well formed. -/
def Obligations.StepRunsTheDecodedTransaction : Prop :=
  ∀ (s : State) (x : Transaction) (rest : List Event), s.build.wf = true → s.resetHeld = false →
    s.events = .host x :: rest →
    step s = exec (decode s.build.maxPt (.bus x)) { s with events := rest }

/-- R84, R107: when the next transaction is the write to CTRL that carries a command word (or any encoded
instruction's own transaction), the step is `exec` of that instruction. -/
def Obligations.StepRunsTheCarriedInstruction : Prop :=
  ∀ (s : State) (e : Encoding) (rest : List Event), s.build.wf = true → s.resetHeld = false →
    s.events = .host e.carrier :: rest →
    step s = exec (decode s.build.maxPt e) { s with events := rest }

/-! ### Reset -/

/-- R46: the state right after reset, as a host reads it; no byte of a buffer has been written yet. -/
def Obligations.ResetLeavesTheSpecifiedValues : Prop :=
  State.reset.AtReset ∧
  exec .rdStatus State.reset = .next { State.reset with response := some ⟨.okay, some 0⟩ } ∧
  exec .rdId State.reset = .next { State.reset with response := some ⟨.okay, some 0x43424301⟩ } ∧
  exec .rdCaps State.reset = .next { State.reset with response := some ⟨.okay, some 0x04000010⟩ } ∧
  State.reset.irq = false ∧
  (∀ i, Memory.lookup State.reset.ptBuf i = none ∧ Memory.lookup State.reset.outBuf i = none) ∧
  (∀ i, State.reset.gatedOutByte i = 0)

/-- R270, R272: asserting reset, at any time, gives every register and flag its reset value, abandons an ENCRYPT and
keeps the build; while it is asserted no transaction has an effect; released, the next transaction is served. The
unspecified bytes of PT_BUF and the answers under reset are free values (log 5, log 10). -/
def Obligations.ResetInputRestoresTheResetValues : Prop :=
  ∀ (s : State) (rest : List Event), s.build.wf = true →
    (s.events = .reset true :: rest →
      ∃ t, step s = .next t ∧ t.AtReset ∧ t.irq = false ∧ t.build = s.build ∧ t.resetHeld = true ∧ t.events = rest ∧
        (∀ i, t.gatedOutByte i = 0) ∧ (∀ i, t.ptByte i = Config.unwrittenPt t.epoch i)) ∧
    (∀ x, s.resetHeld = true → s.events = .host x :: rest →
      ∃ t, step s = .next t ∧ t = { s with events := rest, response := t.response, fresh := t.fresh }) ∧
    (s.resetHeld = true → s.events = .reset false :: rest →
      ∃ t, step s = .next t ∧ t.AtReset ∧ t.irq = false ∧ t.build = s.build ∧ t.resetHeld = false ∧ t.events = rest ∧
        ∀ x rest', rest = .host x :: rest' →
          step t = exec (decode t.build.maxPt (.bus x)) { t with events := rest' })

/-! ### The block on its platform -/

/-- R63, R66, R251: BASE is a multiple of 16 KiB; an access at `BASE + off` is the transaction at `off`; an access
outside the 16 KiB from BASE on leaves the block as it is; `irq` drives the build's interrupt line and no other. The
address has no width here, and BASE and the line are the build's (log 19). -/
def Obligations.AccessesReachTheBlockInItsAperture : Prop :=
  ∀ s : State,
    s.build.base % 0x4000 = 0 ∧
    (∀ n, s.irqOnLine n = true ↔ n = s.build.irqLine ∧ s.done = true ∧ s.doneIe = true) ∧
    ∀ rest : List Event, s.build.wf = true →
      (∀ off : BitVec 14, s.events = .access (.read (s.build.base + off.toNat)) :: rest →
        step s = step { s with events := .host (.read off) :: rest }) ∧
      (∀ (off : BitVec 14) (d : Word) (b : BitVec 4),
        s.events = .access (.write (s.build.base + off.toNat) d b) :: rest →
        step s = step { s with events := .host (.write off d b) :: rest }) ∧
      (∀ a : Access, s.events = .access a :: rest → (a.addr < s.build.base ∨ s.build.base + 0x4000 ≤ a.addr) →
        step s = .next { s with events := rest })

/-! ### Completion of an operation -/

/-- R152: NOP, GEN_IV, CLEAR, an illegal command and a failing ENCRYPT are complete right after their write; an accepted
ENCRYPT is complete at the first state after it with BUSY = 0 and DONE = 1, its completion's, which comes unless reset
does, with outcome success and the payload of its operands. R272: an operation that a reset meets before it is complete is
complete nowhere after (log 23). The order and number of steps are the model's (log 2, log 9). -/
def Obligations.OperationsCompleteAsDefined : Prop :=
  (∀ s : State, ∃ t, exec (.wrCtrl 0 0xF) s = .next t ∧ CompletesAt 0 t 0 t) ∧
  (∀ (s : State) (c : Word), s.busy = false → c ≠ 1 → ∃ t, exec (.wrCtrl c 0xF) s = .next t ∧ CompletesAt c t 0 t ∧
    (c ≠ 0 → (t.operationOutcome.success = true ↔ t.operationOutcome.cause = .none))) ∧
  (∀ s : State, s.busy = false → ∃ t, exec (.wrCtrl 1 0xF) s = .next t ∧
    (t.err = true → CompletesAt 1 t 0 t ∧ t.operationOutcome = ⟨false, t.errCode, none⟩ ∧ t.errCode ≠ .none) ∧
    (t.err = false → t.operationComplete 1 = false ∧
      (s.build.wf = true → s.resetHeld = false → (∀ e ∈ s.events, ∀ a, e ≠ .reset a) →
        ∃ k u, 1 ≤ k ∧ k ≤ s.events.length + 1 ∧ CompletesAt 1 t k u ∧
          u.operationOutcome = ⟨true, .none, some t.payloadOf⟩))) ∧
  (∀ (c : Word) (w u : State) (j : Nat), core.run j w = .next u →
    ((∃ rest, u.events = .reset true :: rest) ∨ ∃ rest, u.events = .reset false :: rest ∧ u.resetHeld = true) →
    (∀ i, i ≤ j → ∀ v, core.run i w = .next v → v.operationComplete c = false) →
    ∀ k t, ¬ CompletesAt c w k t)
end

