-- ==== Sys2Proof/Laws/Aes.lean ====
section
/-! SUPPORT. Laws of the round functions: `xtime` is linear, the S-box is injective, MixColumns is the identity after
four applications, and a double exclusive-or cancels. -/

namespace Sys2Proof.Machine

open Sys2Proof

theorem Quad.xor_cancel (p q : Quad) : (p.xor q).xor q = p := by
  simp [Quad.xor]

theorem Block.xor_cancel (a b : Block) : (a.xor b).xor b = a := by
  simp [Block.xor, Quad.xor_cancel]

namespace Aes

theorem xtime_xor (a b : Byte) : xtime (a ^^^ b) = xtime a ^^^ xtime b := by
  unfold xtime
  rw [BitVec.getLsbD_xor, BitVec.shiftLeft_xor_distrib]
  cases a.getLsbD 7 <;> cases b.getLsbD 7 <;>
    simp [BitVec.xor_assoc, BitVec.xor_comm (b <<< 1), ← BitVec.xor_assoc (27#8) (27#8)]

/-- The S-box inverted: the bytes `S^-1(32 r) … S^-1(32 r + 31)` of each row, the first byte the least significant. -/
def sboxInverseRows : List Nat := [
  0xcbe9dec444438e3487ff2f9b8239e37cfbd7f3819ea340bf38a53630d56a0952,
  0x25d18b6d49a25b76b224d92866a12e084ec3fa420b954cee3d23c2a632947b54,
  0x849d8da75746155edab9edfd5048706c92b6655dcc5ca4d41698688664f6f872,
  0x6b8a130103bdafc1020f3fca8f1e2cd00645b3b80558e4f70ad3bc8c00abd890,
  0x6edf751ce837f9e28535ade72274ac9673e6b4f0cecff297eadc674f4111913a,
  0xf45acd78fec0db9a2079d2c64b3e56fc1bbe18aa0e62b76f89c5291d711af147,
  0xef9cc9939f7ae52d0d4ab519a97f51605fec8027591012b131c7078833a8dd1f,
  0x7d0c2155631469e126d677ba7e042b17619953833cbbebc8b0f52aae4d3be0a0
  ]

/-- The inverse of the S-box. -/
def sboxInverse (y : Byte) : Byte := BitVec.ofNat 8 (sboxInverseRows.getD (y.toNat / 32) 0 / 256 ^ (y.toNat % 32))

theorem sboxInverse_sbox (a : Byte) : sboxInverse (sbox a) = a := by
  have h : ∀ a : Byte, sboxInverse (sbox a) = a := by decide +kernel
  exact h a

theorem sbox_injective : Function.Injective sbox := Function.LeftInverse.injective sboxInverse_sbox

theorem xor_left_comm (a b c : Byte) : a ^^^ (b ^^^ c) = b ^^^ (a ^^^ c) := by
  rw [← BitVec.xor_assoc, BitVec.xor_comm a b, BitVec.xor_assoc]

/-- Twice MixColumns: 5 times a byte and 4 times the byte two rows on. -/
theorem mixColumn_twice (a : Quad) :
    mixColumn (mixColumn a) =
      ⟨xtime (xtime a.b0) ^^^ a.b0 ^^^ xtime (xtime a.b2), xtime (xtime a.b1) ^^^ a.b1 ^^^ xtime (xtime a.b3),
        xtime (xtime a.b2) ^^^ a.b2 ^^^ xtime (xtime a.b0), xtime (xtime a.b3) ^^^ a.b3 ^^^ xtime (xtime a.b1)⟩ := by
  obtain ⟨b0, b1, b2, b3⟩ := a
  simp only [mixColumn, mul2, mul3, xtime_xor, Quad.mk.injEq]
  refine ⟨?_, ?_, ?_, ?_⟩ <;> simp [BitVec.xor_comm, xor_left_comm, BitVec.xor_assoc]

theorem mixColumn_four (a : Quad) : mixColumn (mixColumn (mixColumn (mixColumn a))) = a := by
  rw [mixColumn_twice (mixColumn (mixColumn a)), mixColumn_twice a]
  obtain ⟨b0, b1, b2, b3⟩ := a
  simp only [xtime_xor, Quad.mk.injEq]
  refine ⟨?_, ?_, ?_, ?_⟩ <;> simp [BitVec.xor_comm, xor_left_comm, BitVec.xor_assoc]

end Aes

end Sys2Proof.Machine
end

