-- ==== Sys2Proof/Laws/Aperture.lean ====
section
/-! SUPPORT. Laws of the aperture: where an access falls, and that an access at `BASE + off` is the transaction. -/

namespace Sys2Proof

/-- An address is selected exactly when it lies in the 16 KiB from `BASE` on. -/
theorem Build.selects_iff (b : Build) (addr : Nat) :
    b.selects addr = true ↔ b.base ≤ addr ∧ addr < b.base + 0x4000 := by simp [Build.selects]

@[simp] theorem Build.selects_base_add (b : Build) (off : BitVec 14) : b.selects (b.base + off.toNat) = true := by
  rw [Build.selects_iff]; omega

@[simp] theorem Build.offset_base_add (b : Build) (off : BitVec 14) : b.offset (b.base + off.toNat) = off := by
  simp [Build.offset]

@[simp] theorem Build.transaction_read (b : Build) (off : BitVec 14) :
    b.transaction (.read (b.base + off.toNat)) = some (.read off) := by simp [Build.transaction, Access.addr]

@[simp] theorem Build.transaction_write (b : Build) (off : BitVec 14) (d : Word) (strb : BitVec 4) :
    b.transaction (.write (b.base + off.toNat) d strb) = some (.write off d strb) := by
  simp [Build.transaction, Access.addr]

theorem Build.transaction_access (b : Build) (t : Transaction) : b.transaction (b.access t) = some t := by
  cases t <;> simp [Build.access]

/-- No transaction reaches the block from outside its aperture. -/
theorem Build.transaction_eq_none_iff (b : Build) (a : Access) :
    b.transaction a = none ↔ a.addr < b.base ∨ b.base + 0x4000 ≤ a.addr := by
  have h : b.transaction a = none ↔ b.selects a.addr = false := by
    cases a <;> cases hs : b.selects (Access.addr _) <;> simp [Build.transaction, hs]
  rw [h, Bool.eq_false_iff, Ne, Build.selects_iff]
  omega

end Sys2Proof
end

