-- ==== Sys2Proof/Laws/State.lean ====
section
/-! SUPPORT. What each named update of the state does to each field: one lemma a field an update, all by rfl, so that no
proof unfolds a record update. -/

namespace Sys2Proof.Machine

variable (s : State)

/-! ### readOkay -/

@[simp] theorem State.readOkay_busy (v : Word) : (s.readOkay v).busy = s.busy := rfl
@[simp] theorem State.readOkay_done (v : Word) : (s.readOkay v).done = s.done := rfl
@[simp] theorem State.readOkay_err (v : Word) : (s.readOkay v).err = s.err := rfl
@[simp] theorem State.readOkay_outValid (v : Word) : (s.readOkay v).outValid = s.outValid := rfl
@[simp] theorem State.readOkay_ivValid (v : Word) : (s.readOkay v).ivValid = s.ivValid := rfl
@[simp] theorem State.readOkay_viol (v : Word) : (s.readOkay v).viol = s.viol := rfl
@[simp] theorem State.readOkay_errCode (v : Word) : (s.readOkay v).errCode = s.errCode := rfl
@[simp] theorem State.readOkay_ptLen (v : Word) : (s.readOkay v).ptLen = s.ptLen := rfl
@[simp] theorem State.readOkay_outLen (v : Word) : (s.readOkay v).outLen = s.outLen := rfl
@[simp] theorem State.readOkay_ivSrc (v : Word) : (s.readOkay v).ivSrc = s.ivSrc := rfl
@[simp] theorem State.readOkay_ivDigits (v : Word) : (s.readOkay v).ivDigits = s.ivDigits := rfl
@[simp] theorem State.readOkay_doneIe (v : Word) : (s.readOkay v).doneIe = s.doneIe := rfl
@[simp] theorem State.readOkay_ivGroup (v : Word) : (s.readOkay v).ivGroup = s.ivGroup := rfl
@[simp] theorem State.readOkay_ptBuf (v : Word) : (s.readOkay v).ptBuf = s.ptBuf := rfl
@[simp] theorem State.readOkay_outBuf (v : Word) : (s.readOkay v).outBuf = s.outBuf := rfl
@[simp] theorem State.readOkay_build (v : Word) : (s.readOkay v).build = s.build := rfl
@[simp] theorem State.readOkay_response (v : Word) : (s.readOkay v).response = some ⟨.okay, some v⟩ := rfl
@[simp] theorem State.readOkay_resetHeld (v : Word) : (s.readOkay v).resetHeld = s.resetHeld := rfl
@[simp] theorem State.readOkay_events (v : Word) : (s.readOkay v).events = s.events := rfl
@[simp] theorem State.readOkay_fresh (v : Word) : (s.readOkay v).fresh = s.fresh := rfl
@[simp] theorem State.readOkay_epoch (v : Word) : (s.readOkay v).epoch = s.epoch := rfl

/-! ### writeOkay -/

@[simp] theorem State.writeOkay_busy : s.writeOkay.busy = s.busy := rfl
@[simp] theorem State.writeOkay_done : s.writeOkay.done = s.done := rfl
@[simp] theorem State.writeOkay_err : s.writeOkay.err = s.err := rfl
@[simp] theorem State.writeOkay_outValid : s.writeOkay.outValid = s.outValid := rfl
@[simp] theorem State.writeOkay_ivValid : s.writeOkay.ivValid = s.ivValid := rfl
@[simp] theorem State.writeOkay_viol : s.writeOkay.viol = s.viol := rfl
@[simp] theorem State.writeOkay_errCode : s.writeOkay.errCode = s.errCode := rfl
@[simp] theorem State.writeOkay_ptLen : s.writeOkay.ptLen = s.ptLen := rfl
@[simp] theorem State.writeOkay_outLen : s.writeOkay.outLen = s.outLen := rfl
@[simp] theorem State.writeOkay_ivSrc : s.writeOkay.ivSrc = s.ivSrc := rfl
@[simp] theorem State.writeOkay_ivDigits : s.writeOkay.ivDigits = s.ivDigits := rfl
@[simp] theorem State.writeOkay_doneIe : s.writeOkay.doneIe = s.doneIe := rfl
@[simp] theorem State.writeOkay_ivGroup : s.writeOkay.ivGroup = s.ivGroup := rfl
@[simp] theorem State.writeOkay_ptBuf : s.writeOkay.ptBuf = s.ptBuf := rfl
@[simp] theorem State.writeOkay_outBuf : s.writeOkay.outBuf = s.outBuf := rfl
@[simp] theorem State.writeOkay_build : s.writeOkay.build = s.build := rfl
@[simp] theorem State.writeOkay_response : s.writeOkay.response = some ⟨.okay, none⟩ := rfl
@[simp] theorem State.writeOkay_resetHeld : s.writeOkay.resetHeld = s.resetHeld := rfl
@[simp] theorem State.writeOkay_events : s.writeOkay.events = s.events := rfl
@[simp] theorem State.writeOkay_fresh : s.writeOkay.fresh = s.fresh := rfl
@[simp] theorem State.writeOkay_epoch : s.writeOkay.epoch = s.epoch := rfl

/-! ### busError -/

@[simp] theorem State.busError_busy : s.busError.busy = s.busy := rfl
@[simp] theorem State.busError_done : s.busError.done = s.done := rfl
@[simp] theorem State.busError_err : s.busError.err = s.err := rfl
@[simp] theorem State.busError_outValid : s.busError.outValid = s.outValid := rfl
@[simp] theorem State.busError_ivValid : s.busError.ivValid = s.ivValid := rfl
@[simp] theorem State.busError_viol : s.busError.viol = s.viol := rfl
@[simp] theorem State.busError_errCode : s.busError.errCode = s.errCode := rfl
@[simp] theorem State.busError_ptLen : s.busError.ptLen = s.ptLen := rfl
@[simp] theorem State.busError_outLen : s.busError.outLen = s.outLen := rfl
@[simp] theorem State.busError_ivSrc : s.busError.ivSrc = s.ivSrc := rfl
@[simp] theorem State.busError_ivDigits : s.busError.ivDigits = s.ivDigits := rfl
@[simp] theorem State.busError_doneIe : s.busError.doneIe = s.doneIe := rfl
@[simp] theorem State.busError_ivGroup : s.busError.ivGroup = s.ivGroup := rfl
@[simp] theorem State.busError_ptBuf : s.busError.ptBuf = s.ptBuf := rfl
@[simp] theorem State.busError_outBuf : s.busError.outBuf = s.outBuf := rfl
@[simp] theorem State.busError_build : s.busError.build = s.build := rfl
@[simp] theorem State.busError_response : s.busError.response = some ⟨.slverr, some 0⟩ := rfl
@[simp] theorem State.busError_resetHeld : s.busError.resetHeld = s.resetHeld := rfl
@[simp] theorem State.busError_events : s.busError.events = s.events := rfl
@[simp] theorem State.busError_fresh : s.busError.fresh = s.fresh := rfl
@[simp] theorem State.busError_epoch : s.busError.epoch = s.epoch := rfl

/-! ### violation -/

@[simp] theorem State.violation_busy : s.violation.busy = s.busy := rfl
@[simp] theorem State.violation_done : s.violation.done = s.done := rfl
@[simp] theorem State.violation_err : s.violation.err = s.err := rfl
@[simp] theorem State.violation_outValid : s.violation.outValid = s.outValid := rfl
@[simp] theorem State.violation_ivValid : s.violation.ivValid = s.ivValid := rfl
@[simp] theorem State.violation_viol : s.violation.viol = true := rfl
@[simp] theorem State.violation_errCode : s.violation.errCode = s.errCode := rfl
@[simp] theorem State.violation_ptLen : s.violation.ptLen = s.ptLen := rfl
@[simp] theorem State.violation_outLen : s.violation.outLen = s.outLen := rfl
@[simp] theorem State.violation_ivSrc : s.violation.ivSrc = s.ivSrc := rfl
@[simp] theorem State.violation_ivDigits : s.violation.ivDigits = s.ivDigits := rfl
@[simp] theorem State.violation_doneIe : s.violation.doneIe = s.doneIe := rfl
@[simp] theorem State.violation_ivGroup : s.violation.ivGroup = s.ivGroup := rfl
@[simp] theorem State.violation_ptBuf : s.violation.ptBuf = s.ptBuf := rfl
@[simp] theorem State.violation_outBuf : s.violation.outBuf = s.outBuf := rfl
@[simp] theorem State.violation_build : s.violation.build = s.build := rfl
@[simp] theorem State.violation_response : s.violation.response = some ⟨.okay, none⟩ := rfl
@[simp] theorem State.violation_resetHeld : s.violation.resetHeld = s.resetHeld := rfl
@[simp] theorem State.violation_events : s.violation.events = s.events := rfl
@[simp] theorem State.violation_fresh : s.violation.fresh = s.fresh := rfl
@[simp] theorem State.violation_epoch : s.violation.epoch = s.epoch := rfl

/-! ### raiseCmdError -/

@[simp] theorem State.raiseCmdError_busy (code : ErrCode) : (s.raiseCmdError code).busy = s.busy := rfl
@[simp] theorem State.raiseCmdError_done (code : ErrCode) : (s.raiseCmdError code).done = true := rfl
@[simp] theorem State.raiseCmdError_err (code : ErrCode) : (s.raiseCmdError code).err = true := rfl
@[simp] theorem State.raiseCmdError_outValid (code : ErrCode) : (s.raiseCmdError code).outValid = s.outValid := rfl
@[simp] theorem State.raiseCmdError_ivValid (code : ErrCode) : (s.raiseCmdError code).ivValid = s.ivValid := rfl
@[simp] theorem State.raiseCmdError_viol (code : ErrCode) : (s.raiseCmdError code).viol = s.viol := rfl
@[simp] theorem State.raiseCmdError_errCode (code : ErrCode) : (s.raiseCmdError code).errCode = code := rfl
@[simp] theorem State.raiseCmdError_ptLen (code : ErrCode) : (s.raiseCmdError code).ptLen = s.ptLen := rfl
@[simp] theorem State.raiseCmdError_outLen (code : ErrCode) : (s.raiseCmdError code).outLen = s.outLen := rfl
@[simp] theorem State.raiseCmdError_ivSrc (code : ErrCode) : (s.raiseCmdError code).ivSrc = s.ivSrc := rfl
@[simp] theorem State.raiseCmdError_ivDigits (code : ErrCode) : (s.raiseCmdError code).ivDigits = s.ivDigits := rfl
@[simp] theorem State.raiseCmdError_doneIe (code : ErrCode) : (s.raiseCmdError code).doneIe = s.doneIe := rfl
@[simp] theorem State.raiseCmdError_ivGroup (code : ErrCode) : (s.raiseCmdError code).ivGroup = s.ivGroup := rfl
@[simp] theorem State.raiseCmdError_ptBuf (code : ErrCode) : (s.raiseCmdError code).ptBuf = s.ptBuf := rfl
@[simp] theorem State.raiseCmdError_outBuf (code : ErrCode) : (s.raiseCmdError code).outBuf = s.outBuf := rfl
@[simp] theorem State.raiseCmdError_build (code : ErrCode) : (s.raiseCmdError code).build = s.build := rfl
@[simp] theorem State.raiseCmdError_response (code : ErrCode) : (s.raiseCmdError code).response = s.response := rfl
@[simp] theorem State.raiseCmdError_resetHeld (code : ErrCode) : (s.raiseCmdError code).resetHeld = s.resetHeld := rfl
@[simp] theorem State.raiseCmdError_events (code : ErrCode) : (s.raiseCmdError code).events = s.events := rfl
@[simp] theorem State.raiseCmdError_fresh (code : ErrCode) : (s.raiseCmdError code).fresh = s.fresh := rfl
@[simp] theorem State.raiseCmdError_epoch (code : ErrCode) : (s.raiseCmdError code).epoch = s.epoch := rfl

/-! ### acknowledge -/

@[simp] theorem State.acknowledge_busy : s.acknowledge.busy = s.busy := rfl
@[simp] theorem State.acknowledge_done : s.acknowledge.done = false := rfl
@[simp] theorem State.acknowledge_err : s.acknowledge.err = false := rfl
@[simp] theorem State.acknowledge_outValid : s.acknowledge.outValid = s.outValid := rfl
@[simp] theorem State.acknowledge_ivValid : s.acknowledge.ivValid = s.ivValid := rfl
@[simp] theorem State.acknowledge_viol : s.acknowledge.viol = s.viol := rfl
@[simp] theorem State.acknowledge_errCode : s.acknowledge.errCode = .none := rfl
@[simp] theorem State.acknowledge_ptLen : s.acknowledge.ptLen = s.ptLen := rfl
@[simp] theorem State.acknowledge_outLen : s.acknowledge.outLen = s.outLen := rfl
@[simp] theorem State.acknowledge_ivSrc : s.acknowledge.ivSrc = s.ivSrc := rfl
@[simp] theorem State.acknowledge_ivDigits : s.acknowledge.ivDigits = s.ivDigits := rfl
@[simp] theorem State.acknowledge_doneIe : s.acknowledge.doneIe = s.doneIe := rfl
@[simp] theorem State.acknowledge_ivGroup : s.acknowledge.ivGroup = s.ivGroup := rfl
@[simp] theorem State.acknowledge_ptBuf : s.acknowledge.ptBuf = s.ptBuf := rfl
@[simp] theorem State.acknowledge_outBuf : s.acknowledge.outBuf = s.outBuf := rfl
@[simp] theorem State.acknowledge_build : s.acknowledge.build = s.build := rfl
@[simp] theorem State.acknowledge_response : s.acknowledge.response = s.response := rfl
@[simp] theorem State.acknowledge_resetHeld : s.acknowledge.resetHeld = s.resetHeld := rfl
@[simp] theorem State.acknowledge_events : s.acknowledge.events = s.events := rfl
@[simp] theorem State.acknowledge_fresh : s.acknowledge.fresh = s.fresh := rfl
@[simp] theorem State.acknowledge_epoch : s.acknowledge.epoch = s.epoch := rfl

/-! ### encryptPrologue -/

@[simp] theorem State.encryptPrologue_busy : s.encryptPrologue.busy = s.busy := rfl
@[simp] theorem State.encryptPrologue_done : s.encryptPrologue.done = false := rfl
@[simp] theorem State.encryptPrologue_err : s.encryptPrologue.err = false := rfl
@[simp] theorem State.encryptPrologue_outValid : s.encryptPrologue.outValid = false := rfl
@[simp] theorem State.encryptPrologue_ivValid : s.encryptPrologue.ivValid = s.ivValid := rfl
@[simp] theorem State.encryptPrologue_viol : s.encryptPrologue.viol = s.viol := rfl
@[simp] theorem State.encryptPrologue_errCode : s.encryptPrologue.errCode = .none := rfl
@[simp] theorem State.encryptPrologue_ptLen : s.encryptPrologue.ptLen = s.ptLen := rfl
@[simp] theorem State.encryptPrologue_outLen : s.encryptPrologue.outLen = 0 := rfl
@[simp] theorem State.encryptPrologue_ivSrc : s.encryptPrologue.ivSrc = s.ivSrc := rfl
@[simp] theorem State.encryptPrologue_ivDigits : s.encryptPrologue.ivDigits = s.ivDigits := rfl
@[simp] theorem State.encryptPrologue_doneIe : s.encryptPrologue.doneIe = s.doneIe := rfl
@[simp] theorem State.encryptPrologue_ivGroup : s.encryptPrologue.ivGroup = s.ivGroup := rfl
@[simp] theorem State.encryptPrologue_ptBuf : s.encryptPrologue.ptBuf = s.ptBuf := rfl
@[simp] theorem State.encryptPrologue_outBuf : s.encryptPrologue.outBuf = s.outBuf := rfl
@[simp] theorem State.encryptPrologue_build : s.encryptPrologue.build = s.build := rfl
@[simp] theorem State.encryptPrologue_response : s.encryptPrologue.response = s.response := rfl
@[simp] theorem State.encryptPrologue_resetHeld : s.encryptPrologue.resetHeld = s.resetHeld := rfl
@[simp] theorem State.encryptPrologue_events : s.encryptPrologue.events = s.events := rfl
@[simp] theorem State.encryptPrologue_fresh : s.encryptPrologue.fresh = s.fresh := rfl
@[simp] theorem State.encryptPrologue_epoch : s.encryptPrologue.epoch = s.epoch := rfl

/-! ### clearAll -/

@[simp] theorem State.clearAll_busy : s.clearAll.busy = s.busy := rfl
@[simp] theorem State.clearAll_done : s.clearAll.done = false := rfl
@[simp] theorem State.clearAll_err : s.clearAll.err = false := rfl
@[simp] theorem State.clearAll_outValid : s.clearAll.outValid = false := rfl
@[simp] theorem State.clearAll_ivValid : s.clearAll.ivValid = false := rfl
@[simp] theorem State.clearAll_viol : s.clearAll.viol = false := rfl
@[simp] theorem State.clearAll_errCode : s.clearAll.errCode = .none := rfl
@[simp] theorem State.clearAll_ptLen : s.clearAll.ptLen = s.ptLen := rfl
@[simp] theorem State.clearAll_outLen : s.clearAll.outLen = 0 := rfl
@[simp] theorem State.clearAll_ivSrc : s.clearAll.ivSrc = s.ivSrc := rfl
@[simp] theorem State.clearAll_ivDigits : s.clearAll.ivDigits = s.ivDigits := rfl
@[simp] theorem State.clearAll_doneIe : s.clearAll.doneIe = s.doneIe := rfl
@[simp] theorem State.clearAll_ivGroup : s.clearAll.ivGroup = ⟨0, 0, 0, 0⟩ := rfl
@[simp] theorem State.clearAll_ptBuf : s.clearAll.ptBuf = s.ptBuf := rfl
@[simp] theorem State.clearAll_outBuf : s.clearAll.outBuf = s.outBuf := rfl
@[simp] theorem State.clearAll_build : s.clearAll.build = s.build := rfl
@[simp] theorem State.clearAll_response : s.clearAll.response = s.response := rfl
@[simp] theorem State.clearAll_resetHeld : s.clearAll.resetHeld = s.resetHeld := rfl
@[simp] theorem State.clearAll_events : s.clearAll.events = s.events := rfl
@[simp] theorem State.clearAll_fresh : s.clearAll.fresh = s.fresh := rfl
@[simp] theorem State.clearAll_epoch : s.clearAll.epoch = s.epoch := rfl

/-! ### illegalCommand -/

@[simp] theorem State.illegalCommand_busy : s.illegalCommand.busy = s.busy := rfl
@[simp] theorem State.illegalCommand_done : s.illegalCommand.done = true := rfl
@[simp] theorem State.illegalCommand_err : s.illegalCommand.err = true := rfl
@[simp] theorem State.illegalCommand_outValid : s.illegalCommand.outValid = s.outValid := rfl
@[simp] theorem State.illegalCommand_ivValid : s.illegalCommand.ivValid = s.ivValid := rfl
@[simp] theorem State.illegalCommand_viol : s.illegalCommand.viol = s.viol := rfl
@[simp] theorem State.illegalCommand_errCode : s.illegalCommand.errCode = .illegalCmd := rfl
@[simp] theorem State.illegalCommand_ptLen : s.illegalCommand.ptLen = s.ptLen := rfl
@[simp] theorem State.illegalCommand_outLen : s.illegalCommand.outLen = s.outLen := rfl
@[simp] theorem State.illegalCommand_ivSrc : s.illegalCommand.ivSrc = s.ivSrc := rfl
@[simp] theorem State.illegalCommand_ivDigits : s.illegalCommand.ivDigits = s.ivDigits := rfl
@[simp] theorem State.illegalCommand_doneIe : s.illegalCommand.doneIe = s.doneIe := rfl
@[simp] theorem State.illegalCommand_ivGroup : s.illegalCommand.ivGroup = s.ivGroup := rfl
@[simp] theorem State.illegalCommand_ptBuf : s.illegalCommand.ptBuf = s.ptBuf := rfl
@[simp] theorem State.illegalCommand_outBuf : s.illegalCommand.outBuf = s.outBuf := rfl
@[simp] theorem State.illegalCommand_build : s.illegalCommand.build = s.build := rfl
@[simp] theorem State.illegalCommand_response : s.illegalCommand.response = s.response := rfl
@[simp] theorem State.illegalCommand_resetHeld : s.illegalCommand.resetHeld = s.resetHeld := rfl
@[simp] theorem State.illegalCommand_events : s.illegalCommand.events = s.events := rfl
@[simp] theorem State.illegalCommand_fresh : s.illegalCommand.fresh = s.fresh := rfl
@[simp] theorem State.illegalCommand_epoch : s.illegalCommand.epoch = s.epoch := rfl

/-! ### storePayload -/

@[simp] theorem State.storePayload_busy (pay : List Byte) : (s.storePayload pay).busy = false := rfl
@[simp] theorem State.storePayload_done (pay : List Byte) : (s.storePayload pay).done = true := rfl
@[simp] theorem State.storePayload_err (pay : List Byte) : (s.storePayload pay).err = s.err := rfl
@[simp] theorem State.storePayload_outValid (pay : List Byte) : (s.storePayload pay).outValid = true := rfl
@[simp] theorem State.storePayload_ivValid (pay : List Byte) : (s.storePayload pay).ivValid = s.ivValid := rfl
@[simp] theorem State.storePayload_viol (pay : List Byte) : (s.storePayload pay).viol = s.viol := rfl
@[simp] theorem State.storePayload_errCode (pay : List Byte) : (s.storePayload pay).errCode = s.errCode := rfl
@[simp] theorem State.storePayload_ptLen (pay : List Byte) : (s.storePayload pay).ptLen = s.ptLen := rfl
@[simp] theorem State.storePayload_outLen (pay : List Byte) :
    (s.storePayload pay).outLen = BitVec.ofNat 16 pay.length := rfl
@[simp] theorem State.storePayload_ivSrc (pay : List Byte) : (s.storePayload pay).ivSrc = s.ivSrc := rfl
@[simp] theorem State.storePayload_ivDigits (pay : List Byte) : (s.storePayload pay).ivDigits = s.ivDigits := rfl
@[simp] theorem State.storePayload_doneIe (pay : List Byte) : (s.storePayload pay).doneIe = s.doneIe := rfl
@[simp] theorem State.storePayload_ivGroup (pay : List Byte) : (s.storePayload pay).ivGroup = s.ivGroup := rfl
@[simp] theorem State.storePayload_ptBuf (pay : List Byte) : (s.storePayload pay).ptBuf = s.ptBuf := rfl
@[simp] theorem State.storePayload_outBuf (pay : List Byte) :
    (s.storePayload pay).outBuf = Memory.writeBytes s.outBuf 0 pay := rfl
@[simp] theorem State.storePayload_build (pay : List Byte) : (s.storePayload pay).build = s.build := rfl
@[simp] theorem State.storePayload_response (pay : List Byte) : (s.storePayload pay).response = s.response := rfl
@[simp] theorem State.storePayload_resetHeld (pay : List Byte) : (s.storePayload pay).resetHeld = s.resetHeld := rfl
@[simp] theorem State.storePayload_events (pay : List Byte) : (s.storePayload pay).events = s.events := rfl
@[simp] theorem State.storePayload_fresh (pay : List Byte) : (s.storePayload pay).fresh = s.fresh := rfl
@[simp] theorem State.storePayload_epoch (pay : List Byte) : (s.storePayload pay).epoch = s.epoch := rfl

/-! ### replyUnderReset -/

@[simp] theorem State.replyUnderReset_busy : s.replyUnderReset.busy = s.busy := rfl
@[simp] theorem State.replyUnderReset_done : s.replyUnderReset.done = s.done := rfl
@[simp] theorem State.replyUnderReset_err : s.replyUnderReset.err = s.err := rfl
@[simp] theorem State.replyUnderReset_outValid : s.replyUnderReset.outValid = s.outValid := rfl
@[simp] theorem State.replyUnderReset_ivValid : s.replyUnderReset.ivValid = s.ivValid := rfl
@[simp] theorem State.replyUnderReset_viol : s.replyUnderReset.viol = s.viol := rfl
@[simp] theorem State.replyUnderReset_errCode : s.replyUnderReset.errCode = s.errCode := rfl
@[simp] theorem State.replyUnderReset_ptLen : s.replyUnderReset.ptLen = s.ptLen := rfl
@[simp] theorem State.replyUnderReset_outLen : s.replyUnderReset.outLen = s.outLen := rfl
@[simp] theorem State.replyUnderReset_ivSrc : s.replyUnderReset.ivSrc = s.ivSrc := rfl
@[simp] theorem State.replyUnderReset_ivDigits : s.replyUnderReset.ivDigits = s.ivDigits := rfl
@[simp] theorem State.replyUnderReset_doneIe : s.replyUnderReset.doneIe = s.doneIe := rfl
@[simp] theorem State.replyUnderReset_ivGroup : s.replyUnderReset.ivGroup = s.ivGroup := rfl
@[simp] theorem State.replyUnderReset_ptBuf : s.replyUnderReset.ptBuf = s.ptBuf := rfl
@[simp] theorem State.replyUnderReset_outBuf : s.replyUnderReset.outBuf = s.outBuf := rfl
@[simp] theorem State.replyUnderReset_build : s.replyUnderReset.build = s.build := rfl
@[simp] theorem State.replyUnderReset_response :
    s.replyUnderReset.response = some ⟨if Config.okayUnderReset s.fresh then .okay else .slverr, Config.rdataUnderReset s.fresh⟩ := rfl
@[simp] theorem State.replyUnderReset_resetHeld : s.replyUnderReset.resetHeld = s.resetHeld := rfl
@[simp] theorem State.replyUnderReset_events : s.replyUnderReset.events = s.events := rfl
@[simp] theorem State.replyUnderReset_fresh : s.replyUnderReset.fresh = s.fresh + 1 := rfl
@[simp] theorem State.replyUnderReset_epoch : s.replyUnderReset.epoch = s.epoch := rfl

/-! ### holdReset -/

@[simp] theorem State.holdReset_busy : s.holdReset.busy = false := rfl
@[simp] theorem State.holdReset_done : s.holdReset.done = false := rfl
@[simp] theorem State.holdReset_err : s.holdReset.err = false := rfl
@[simp] theorem State.holdReset_outValid : s.holdReset.outValid = false := rfl
@[simp] theorem State.holdReset_ivValid : s.holdReset.ivValid = false := rfl
@[simp] theorem State.holdReset_viol : s.holdReset.viol = false := rfl
@[simp] theorem State.holdReset_errCode : s.holdReset.errCode = .none := rfl
@[simp] theorem State.holdReset_ptLen : s.holdReset.ptLen = 0 := rfl
@[simp] theorem State.holdReset_outLen : s.holdReset.outLen = 0 := rfl
@[simp] theorem State.holdReset_ivSrc : s.holdReset.ivSrc = false := rfl
@[simp] theorem State.holdReset_ivDigits : s.holdReset.ivDigits = 0 := rfl
@[simp] theorem State.holdReset_doneIe : s.holdReset.doneIe = false := rfl
@[simp] theorem State.holdReset_ivGroup : s.holdReset.ivGroup = ⟨0, 0, 0, 0⟩ := rfl
@[simp] theorem State.holdReset_ptBuf : s.holdReset.ptBuf = [] := rfl
@[simp] theorem State.holdReset_outBuf : s.holdReset.outBuf = [] := rfl
@[simp] theorem State.holdReset_build : s.holdReset.build = s.build := rfl
@[simp] theorem State.holdReset_response : s.holdReset.response = none := rfl
@[simp] theorem State.holdReset_resetHeld : s.holdReset.resetHeld = true := rfl
@[simp] theorem State.holdReset_events : s.holdReset.events = s.events := rfl
@[simp] theorem State.holdReset_fresh : s.holdReset.fresh = s.fresh := rfl
@[simp] theorem State.holdReset_epoch : s.holdReset.epoch = s.epoch + 1 := rfl

end Sys2Proof.Machine
end

