-- ==== Sys2Proof/Laws/Commands.lean ====
section
/-! SUPPORT. What the commands can do: one lemma for each shared operation, to be cited instead of unfolding it. -/

namespace Sys2Proof.Machine

/-- `make_group()` draws four digits, or reads four legal override digits, or fails on an illegal one (R174). -/
theorem State.makeGroup_cases (s : State) :
    (s.ivSrc = false ∧ s.makeGroup = (some (drawnGroup s.fresh), { s with fresh := s.fresh + 4 })) ∨
    (s.ivSrc = true ∧ digitsLegal s.ivDigits = true ∧
      s.makeGroup = (some (groupOfDigits (digit s.ivDigits 0).toNat (digit s.ivDigits 1).toNat
        (digit s.ivDigits 2).toNat (digit s.ivDigits 3).toNat), s)) ∨
    (s.ivSrc = true ∧ digitsLegal s.ivDigits = false ∧ s.makeGroup = (none, s)) := by
  unfold State.makeGroup overrideGroup
  cases s.ivSrc <;> cases digitsLegal s.ivDigits <;> simp

/-- The checks of R144, first failure first. -/
theorem State.encryptCheck_cases (s : State) :
    (Aes.keyLengthOk s.build.key.length = false ∧ s.encryptCheck = some .keySize) ∨
    (Aes.keyLengthOk s.build.key.length = true ∧ s.build.maxPt < s.ptLen.toNat ∧ s.encryptCheck = some .lenRange) ∨
    (Aes.keyLengthOk s.build.key.length = true ∧ s.ptLen.toNat ≤ s.build.maxPt ∧ s.ivSrc = true ∧
      digitsLegal s.ivDigits = false ∧ s.encryptCheck = some .ivDigit) ∨
    (Aes.keyLengthOk s.build.key.length = true ∧ s.ptLen.toNat ≤ s.build.maxPt ∧
      (s.ivSrc = true → digitsLegal s.ivDigits = true) ∧ s.encryptCheck = none) := by
  unfold State.encryptCheck
  cases Aes.keyLengthOk s.build.key.length
  · simp
  · by_cases h : s.build.maxPt < s.ptLen.toNat
    · simp [h]
    · cases s.ivSrc <;> cases digitsLegal s.ivDigits <;> simp [h] <;> omega

theorem drawnGroup_isDigitGroup (n : Nat) : IsDigitGroup (drawnGroup n) :=
  ⟨_, _, _, _, Nat.le_of_lt_succ (Config.drawnDigit n).isLt, Nat.le_of_lt_succ (Config.drawnDigit (n + 1)).isLt,
    Nat.le_of_lt_succ (Config.drawnDigit (n + 2)).isLt, Nat.le_of_lt_succ (Config.drawnDigit (n + 3)).isLt, rfl⟩

theorem digitsLegal_iff (d : BitVec 16) :
    digitsLegal d = true ↔
      (digit d 0).toNat ≤ 9 ∧ (digit d 1).toNat ≤ 9 ∧ (digit d 2).toNat ≤ 9 ∧ (digit d 3).toNat ≤ 9 := by
  simp [digitsLegal, and_assoc]

/-- An accepted ENCRYPT either fails a check and writes only R241's fields, or begins with a digit group (R143). -/
theorem State.issueEncrypt_cases (s : State) :
    (∃ code, code ≠ .none ∧ s.encryptCheck = some code ∧
      s.issueEncrypt = s.encryptPrologue.raiseCmdError code) ∨
    (s.encryptCheck = none ∧ ∃ g n, IsDigitGroup g ∧
      s.issueEncrypt = { s.encryptPrologue with ivGroup := g, ivValid := true, busy := true, fresh := n }) := by
  have hsame : s.encryptPrologue.encryptCheck = s.encryptCheck := rfl
  unfold State.issueEncrypt
  rw [hsame]
  rcases s.encryptCheck_cases with ⟨_, h⟩ | ⟨_, _, h⟩ | ⟨_, _, _, _, h⟩ | ⟨_, _, hd, h⟩
  · exact .inl ⟨_, by decide, h, by rw [h]⟩
  · exact .inl ⟨_, by decide, h, by rw [h]⟩
  · exact .inl ⟨_, by decide, h, by rw [h]⟩
  · refine .inr ⟨h, ?_⟩
    rw [h]
    unfold State.beginEncrypt
    rcases s.encryptPrologue.makeGroup_cases with ⟨_, hg⟩ | ⟨hs, hl, hg⟩ | ⟨hs, hl, _⟩
    · exact ⟨drawnGroup s.fresh, s.fresh + 4, drawnGroup_isDigitGroup _, by simp only [hg]; rfl⟩
    · obtain ⟨h0, h1, h2, h3⟩ := (digitsLegal_iff _).1 hl
      exact ⟨_, s.fresh, ⟨_, _, _, _, h0, h1, h2, h3, rfl⟩, by simp only [hg]; rfl⟩
    · simp only [State.encryptPrologue_ivSrc, State.encryptPrologue_ivDigits] at hs hl
      rw [hd hs] at hl
      cases hl

/-- An accepted GEN_IV either fails on a digit above 9, or holds a new digit group (R148). -/
theorem State.generateIv_cases (s : State) :
    (s.ivSrc = true ∧ digitsLegal s.ivDigits = false ∧ s.generateIv = s.acknowledge.raiseCmdError .ivDigit) ∨
    (∃ g n, IsDigitGroup g ∧
      s.generateIv = { s.acknowledge with ivGroup := g, ivValid := true, done := true, fresh := n }) := by
  unfold State.generateIv
  rcases s.acknowledge.makeGroup_cases with ⟨_, hg⟩ | ⟨_, hl, hg⟩ | ⟨hs, hl, hg⟩
  · exact .inr ⟨drawnGroup s.fresh, s.fresh + 4, drawnGroup_isDigitGroup _, by rw [hg]; rfl⟩
  · obtain ⟨h0, h1, h2, h3⟩ := (digitsLegal_iff _).1 hl
    exact .inr ⟨_, s.fresh, ⟨_, _, _, _, h0, h1, h2, h3, rfl⟩, by rw [hg]; rfl⟩
  · exact .inl ⟨hs, hl, by rw [hg]⟩

end Sys2Proof.Machine
end

