-- ==== Sys2Proof/Laws/Step.lean ====
section
/-! SUPPORT. What an instruction and a step can do: inversion lemmas, from which every invariant is derived. -/

namespace Sys2Proof.Machine

/-- A register write with all strobes, not locked, is answered OKAY and has its effect. -/
theorem State.writeRegister_full (s : State) (locked : Bool) (effect : State → State)
    (h : (locked && s.busy) = false) : s.writeRegister 0xF locked effect = (effect s).writeOkay := by
  simp [State.writeRegister, fullStrobes, h]

/-- A register write is a bus error, a violation under BUSY, or its effect (R103, R104). -/
theorem State.writeRegister_cases (s : State) (strb : BitVec 4) (locked : Bool) (effect : State → State) :
    s.writeRegister strb locked effect = s.busError ∨
    (s.busy = true ∧ s.writeRegister strb locked effect = s.violation) ∨
    ((locked = true → s.busy = false) ∧ s.writeRegister strb locked effect = (effect s).writeOkay) := by
  unfold State.writeRegister
  cases fullStrobes strb <;> cases locked <;> cases s.busy <;> simp

/-- A command is a violation under BUSY, or accepted (R140). -/
theorem State.command_cases (s : State) (effect : State → State) :
    (s.busy = true ∧ s.command effect = s.violation) ∨
    (s.busy = false ∧ s.command effect = (effect s).writeOkay) := by
  unfold State.command
  cases s.busy <;> simp

/-- The outcomes instruction `i` can have, `t` being the next state. -/
inductive ExecCase (i : Instr) (s t : State) : Prop where
  | read (v : Word) (h : t = s.readOkay v)
  | busError (h : t = s.busError)
  | violation (hb : s.busy = true) (h : t = s.violation)
  | nop (h : t = s.writeOkay)
  | ptLen (hb : s.busy = false) (v : BitVec 16) (h : t = { s with ptLen := v }.writeOkay)
  | ivSrc (hb : s.busy = false) (v : Bool) (h : t = { s with ivSrc := v }.writeOkay)
  | ivDigits (hb : s.busy = false) (v : BitVec 16) (h : t = { s with ivDigits := v }.writeOkay)
  | doneIe (d : Word) (hi : i = .wrIrqEn d 0xF) (h : t = { s with doneIe := bit0 d }.writeOkay)
  | ptBuf (hb : s.busy = false) (d : Word) (b : BitVec 4) (j : BitVec 10) (hi : i = .wrPtBuf j d b)
      (hj : wordInside s.build.maxPt j = true)
      (h : t = { s with ptBuf := Memory.writeWord d b (wordIndex j) s.ptBuf }.writeOkay)
  | encrypt (hi : i = .encrypt ∨ i = .wrCtrl 1 0xF) (hb : s.busy = false) (h : t = s.issueEncrypt.writeOkay)
  | genIv (hi : i = .genIv ∨ i = .wrCtrl 2 0xF) (hb : s.busy = false) (h : t = s.generateIv.writeOkay)
  | clear (hi : i = .clear ∨ i = .wrCtrl 3 0xF) (hb : s.busy = false) (h : t = s.clearAll.writeOkay)
  | illegal (hi : (∃ c, i = .illegal c) ∨ ∃ c, 4 ≤ c.toNat ∧ i = .wrCtrl c 0xF) (hb : s.busy = false)
      (h : t = s.illegalCommand.writeOkay)

theorem execEncrypt_cases {i : Instr} (hi : i = .encrypt ∨ i = .wrCtrl 1 0xF) (s : State) :
    ∃ t, execEncrypt s = .next t ∧ ExecCase i s t := by
  rcases s.command_cases State.issueEncrypt with ⟨hb, h⟩ | ⟨hb, h⟩
  · exact ⟨_, rfl, .violation hb h⟩
  · exact ⟨_, rfl, .encrypt hi hb h⟩

theorem execGenIv_cases {i : Instr} (hi : i = .genIv ∨ i = .wrCtrl 2 0xF) (s : State) :
    ∃ t, execGenIv s = .next t ∧ ExecCase i s t := by
  rcases s.command_cases State.generateIv with ⟨hb, h⟩ | ⟨hb, h⟩
  · exact ⟨_, rfl, .violation hb h⟩
  · exact ⟨_, rfl, .genIv hi hb h⟩

theorem execClear_cases {i : Instr} (hi : i = .clear ∨ i = .wrCtrl 3 0xF) (s : State) :
    ∃ t, execClear s = .next t ∧ ExecCase i s t := by
  rcases s.command_cases State.clearAll with ⟨hb, h⟩ | ⟨hb, h⟩
  · exact ⟨_, rfl, .violation hb h⟩
  · exact ⟨_, rfl, .clear hi hb h⟩

theorem execIllegal_cases {i : Instr} (hi : (∃ c, i = .illegal c) ∨ ∃ c, 4 ≤ c.toNat ∧ i = .wrCtrl c 0xF) (c : Word)
    (s : State) : ∃ t, execIllegal c s = .next t ∧ ExecCase i s t := by
  rcases s.command_cases State.illegalCommand with ⟨hb, h⟩ | ⟨hb, h⟩
  · exact ⟨_, rfl, .violation hb h⟩
  · exact ⟨_, rfl, .illegal hi hb h⟩

/-- A command word that is none of the four legal ones. -/
theorem illegalWord {c : Word} (h0 : c ≠ 0) (h1 : c ≠ 1) (h2 : c ≠ 2) (h3 : c ≠ 3) : 4 ≤ c.toNat := by
  by_contra h
  have hlt : c.toNat < 4 := by omega
  have hc : c = BitVec.ofNat 32 c.toNat := by simp
  interval_cases c.toNat <;> simp_all

theorem fullStrobes_iff (b : BitVec 4) : fullStrobes b = true ↔ b = 0xF := beq_iff_eq

theorem execWrCtrl_cases (d : Word) (b : BitVec 4) (s : State) :
    ∃ t, execWrCtrl d b s = .next t ∧ ExecCase (.wrCtrl d b) s t := by
  unfold execWrCtrl
  split
  · exact ⟨_, rfl, .busError rfl⟩
  · next hb =>
    obtain rfl : b = 0xF := (fullStrobes_iff b).1 (by simpa using hb)
    split
    · exact ⟨_, rfl, .nop rfl⟩
    · next h0 =>
      split
      · next h1 => exact execEncrypt_cases (.inr (by rw [h1])) s
      · next h1 =>
        split
        · next h2 => exact execGenIv_cases (.inr (by rw [h2])) s
        · next h2 =>
          split
          · next h3 => exact execClear_cases (.inr (by rw [h3])) s
          · next h3 => exact execIllegal_cases (.inr ⟨d, illegalWord h0 h1 h2 h3, rfl⟩) d s

theorem execWrPtLen_cases (d : Word) (b : BitVec 4) (s : State) :
    ∃ t, execWrPtLen d b s = .next t ∧ ExecCase (.wrPtLen d b) s t := by
  rcases s.writeRegister_cases b true (fun s => { s with ptLen := low16 d }) with h | ⟨hb, h⟩ | ⟨hb, h⟩
  · exact ⟨_, rfl, .busError h⟩
  · exact ⟨_, rfl, .violation hb h⟩
  · exact ⟨_, rfl, .ptLen (hb rfl) _ h⟩

theorem execWrIvCfg_cases (d : Word) (b : BitVec 4) (s : State) :
    ∃ t, execWrIvCfg d b s = .next t ∧ ExecCase (.wrIvCfg d b) s t := by
  rcases s.writeRegister_cases b true (fun s => { s with ivSrc := bit0 d }) with h | ⟨hb, h⟩ | ⟨hb, h⟩
  · exact ⟨_, rfl, .busError h⟩
  · exact ⟨_, rfl, .violation hb h⟩
  · exact ⟨_, rfl, .ivSrc (hb rfl) _ h⟩

theorem execWrIvDigits_cases (d : Word) (b : BitVec 4) (s : State) :
    ∃ t, execWrIvDigits d b s = .next t ∧ ExecCase (.wrIvDigits d b) s t := by
  rcases s.writeRegister_cases b true (fun s => { s with ivDigits := low16 d }) with h | ⟨hb, h⟩ | ⟨hb, h⟩
  · exact ⟨_, rfl, .busError h⟩
  · exact ⟨_, rfl, .violation hb h⟩
  · exact ⟨_, rfl, .ivDigits (hb rfl) _ h⟩

theorem execWrIrqEn_cases (d : Word) (b : BitVec 4) (s : State) :
    ∃ t, execWrIrqEn d b s = .next t ∧ ExecCase (.wrIrqEn d b) s t := by
  by_cases hb : fullStrobes b = true
  · obtain rfl := (fullStrobes_iff b).1 hb
    exact ⟨_, rfl, .doneIe d rfl (s.writeRegister_full false _ rfl)⟩
  · exact ⟨_, rfl, .busError (by simp [State.writeRegister, hb])⟩

theorem execWrPtBuf_cases (j : BitVec 10) (d : Word) (b : BitVec 4) (s : State) :
    ∃ t, execWrPtBuf j d b s = .next t ∧ ExecCase (.wrPtBuf j d b) s t := by
  unfold execWrPtBuf
  split
  · next hj =>
    split
    · next hb => exact ⟨_, rfl, .violation hb rfl⟩
    · next hb => exact ⟨_, rfl, .ptBuf (by simpa using hb) d b j rfl hj rfl⟩
  · exact ⟨_, rfl, .busError rfl⟩

theorem execRdPtBuf_cases (j : BitVec 10) (s : State) : ∃ t, execRdPtBuf j s = .next t ∧ ExecCase (.rdPtBuf j) s t := by
  unfold execRdPtBuf
  split
  · exact ⟨_, rfl, .read _ rfl⟩
  · exact ⟨_, rfl, .busError rfl⟩

theorem execRdOutBuf_cases (j : BitVec 10) (s : State) : ∃ t, execRdOutBuf j s = .next t ∧ ExecCase (.rdOutBuf j) s t := by
  unfold execRdOutBuf
  split
  · exact ⟨_, rfl, .read _ rfl⟩
  · exact ⟨_, rfl, .busError rfl⟩

/-- Every instruction answers a next state, and does one of the things `ExecCase` lists. -/
theorem exec_cases (i : Instr) (s : State) : ∃ t, exec i s = .next t ∧ ExecCase i s t := by
  cases i with
  | rdId | rdCtrl | rdStatus | rdPtLen | rdOutLen | rdIvCfg | rdIvDigits | rdIrqEn | rdIvGroup | rdCaps =>
    exact ⟨_, rfl, .read _ rfl⟩
  | wrIdRo | wrStatusRo | wrOutLenRo | wrIvGroupRo | wrCapsRo | wrOutBufRo | busErrMisalignedOdd
  | busErrMisalignedHalf | busErrUnmapped => exact ⟨_, rfl, .busError rfl⟩
  | rdPtBuf j => exact execRdPtBuf_cases j s
  | rdOutBuf j => exact execRdOutBuf_cases j s
  | wrPtBuf j d b => exact execWrPtBuf_cases j d b s
  | wrPtLen d b => exact execWrPtLen_cases d b s
  | wrIvCfg d b => exact execWrIvCfg_cases d b s
  | wrIvDigits d b => exact execWrIvDigits_cases d b s
  | wrIrqEn d b => exact execWrIrqEn_cases d b s
  | wrCtrl d b => exact execWrCtrl_cases d b s
  | nop => exact ⟨_, rfl, .nop rfl⟩
  | encrypt => exact execEncrypt_cases (.inl rfl) s
  | genIv => exact execGenIv_cases (.inl rfl) s
  | clear => exact execClear_cases (.inl rfl) s
  | illegal c => exact execIllegal_cases (.inl ⟨c, rfl⟩) c s

theorem exec_inv {i : Instr} {s t : State} (h : exec i s = .next t) : ExecCase i s t := by
  obtain ⟨t', ht, hc⟩ := exec_cases i s
  rw [h] at ht
  cases ht
  exact hc

/-- While BUSY an instruction changes at most the answer, VIOL and DONE_IE: it reads no operand of the ENCRYPT anew. -/
theorem exec_of_busy {i : Instr} {s t : State} (h : exec i s = .next t) (hb : s.busy = true) :
    ∃ r v d, t = { s with response := r, viol := v, doneIe := d } := by
  cases exec_inv h with
  | read v h | busError h | violation hb h | nop h | doneIe d hi h => exact ⟨_, _, _, h⟩
  | ptLen hn | ivSrc hn | ivDigits hn | ptBuf hn | encrypt _ hn | genIv _ hn | clear _ hn | illegal _ hn =>
    rw [hb] at hn; cases hn

/-- The transaction an event brings to the block, if it is a host's: one given by its offset, or an access in the
aperture. -/
def BringsTransaction (b : Build) (e : Event) (x : Transaction) : Prop :=
  e = .host x ∨ ∃ a, e = .access a ∧ b.transaction a = some x

/-- A host transaction is answered without effect under reset, and is `exec` of what it decodes to otherwise. -/
theorem hostStep_cases {x : Transaction} {s t : State} (h : hostStep x s = .next t) :
    (s.resetHeld = true ∧ t = s.replyUnderReset) ∨
    (s.resetHeld = false ∧ exec (decodeBus s.build.maxPt x) s = .next t) := by
  unfold hostStep at h
  split at h
  · next hr => cases h; exact .inl ⟨hr, rfl⟩
  · next hr => exact .inr ⟨by simpa using hr, h⟩

/-- The next states of a step: idle or completion, a change of the reset input, an access that does not reach the block,
a transaction under reset, a transaction performed. -/
theorem step_cases {s t : State} (h : step s = .next t) :
    s.build.wf = true ∧
    ((s.events = [] ∧ t = s.engineStep) ∨
      (∃ rest, s.events = .engine :: rest ∧ t = { s with events := rest }.engineStep) ∨
      (∃ a rest, s.events = .reset a :: rest ∧ t = { s with events := rest }.resetInput a) ∨
      (∃ a rest, s.events = .access a :: rest ∧ s.build.transaction a = none ∧ t = { s with events := rest }) ∨
      (∃ e x rest, s.events = e :: rest ∧ BringsTransaction s.build e x ∧ s.resetHeld = true ∧
        t = { s with events := rest }.replyUnderReset) ∨
      (∃ e x rest, s.events = e :: rest ∧ BringsTransaction s.build e x ∧ s.resetHeld = false ∧
        exec (decodeBus s.build.maxPt x) { s with events := rest } = .next t)) := by
  have brought : ∀ {e x rest}, s.events = e :: rest → BringsTransaction s.build e x →
      hostStep x { s with events := rest } = .next t →
      (∃ e x rest, s.events = e :: rest ∧ BringsTransaction s.build e x ∧ s.resetHeld = true ∧
        t = { s with events := rest }.replyUnderReset) ∨
      (∃ e x rest, s.events = e :: rest ∧ BringsTransaction s.build e x ∧ s.resetHeld = false ∧
        exec (decodeBus s.build.maxPt x) { s with events := rest } = .next t) := by
    intro e x rest he hx hs
    rcases hostStep_cases hs with ⟨hr, ht⟩ | ⟨hr, ht⟩
    · exact .inl ⟨e, x, rest, he, hx, hr, ht⟩
    · exact .inr ⟨e, x, rest, he, hx, hr, ht⟩
  unfold step at h
  split at h
  · next hw =>
    refine ⟨hw, ?_⟩
    split at h
    · next he => cases h; exact .inl ⟨he, rfl⟩
    · next x rest he => exact .inr (.inr (.inr (.inr (brought he (.inl rfl) h))))
    · next a rest he =>
      unfold accessStep at h
      split at h
      · next x hx => exact .inr (.inr (.inr (.inr (brought he (.inr ⟨a, rfl, hx⟩) h))))
      · next hx => cases h; exact .inr (.inr (.inr (.inl ⟨a, rest, he, hx, rfl⟩)))
    · next rest he => cases h; exact .inr (.inl ⟨rest, he, rfl⟩)
    · next a rest he => cases h; exact .inr (.inr (.inl ⟨a, rest, he, rfl⟩))
  · cases h

/-- A run of any machine goes on from the next state of its first step. -/
theorem run_succ_of {M : Host.Core} {s t : M.State} (h : M.step s = .next t) (k : Nat) :
    M.run (k + 1) s = M.run k t := by
  rw [Host.Core.run, h]

/-- A run of the block goes on from the next state of its first step. -/
theorem run_succ {s t : State} (h : step s = .next t) (k : Nat) : core.run (k + 1) s = core.run k t :=
  run_succ_of (M := core) h k

/-- The engine acts only while BUSY with reset released. -/
theorem State.engineStep_cases (s : State) :
    (s.busy = true ∧ s.resetHeld = false ∧ s.engineStep = s.complete) ∨
    ((s.busy = false ∨ s.resetHeld = true) ∧ s.engineStep = s) := by
  unfold State.engineStep
  cases s.busy <;> cases s.resetHeld <;> simp

end Sys2Proof.Machine
end

