-- ==== Sys2Proof/Laws/Completion.lean ====
section
/-! SUPPORT. Laws of completion: when the next step is a reset, and completion step by step. -/

namespace Sys2Proof.Machine

/-- The next step applies the reset values exactly when a reset event that does so heads the list. -/
theorem State.resetNext_iff (s : State) :
    s.resetNext = true ↔
      (∃ rest, s.events = .reset true :: rest) ∨ ∃ rest, s.events = .reset false :: rest ∧ s.resetHeld = true := by
  unfold State.resetNext
  split
  · next a rest he => cases a <;> simp [he]
  · next he => simp; exact ⟨fun rest h => he _ _ h, fun rest h => absurd h (he _ _)⟩

/-- With no reset pending the next step is none. -/
theorem State.resetNext_eq_false {s : State} (h : ∀ e ∈ s.events, ∀ a, e ≠ .reset a) : s.resetNext = false := by
  unfold State.resetNext
  split
  · next a rest he => exact absurd rfl (h (.reset a) (by simp [he]) a)
  · rfl

/-- An operation that is complete right after its write. -/
theorem completesAt_zero {c : Word} {w : State} (h : w.operationComplete c = true) : CompletesAt c w 0 w :=
  ⟨rfl, h, fun _ hj => absurd hj (Nat.not_lt_zero _)⟩

/-- An operation that is not complete yet, and that no reset ends in this step, completes where it does from the next
state on. -/
theorem completesAt_succ {c : Word} {w w' t : State} {k : Nat} (hw : w.operationComplete c = false)
    (hr : w.resetNext = false) (hs : step w = .next w') (h : CompletesAt c w' k t) : CompletesAt c w (k + 1) t := by
  obtain ⟨hrun, hc, hfirst⟩ := h
  refine ⟨(run_succ hs k).trans hrun, hc, fun j hj u hu => ?_⟩
  cases j with
  | zero => cases hu; exact ⟨hw, hr⟩
  | succ j => exact hfirst j (Nat.lt_of_succ_lt_succ hj) u ((run_succ hs j).symm.trans hu)

end Sys2Proof.Machine
end

