-- ==== Sys2Proof/Laws/Memory.lean ====
section
/-! SUPPORT. The laws of the buffers' cell lists: reading back what was written, leaving every other index alone, and
keeping the canonical form. -/

namespace Sys2Proof.Machine

/-! ### One byte -/

theorem Memory.lookup_insert (m : Memory) (i j : Nat) (v : Byte) :
    Memory.lookup (Memory.insert m i v) j = if i = j then some v else Memory.lookup m j := by
  induction m with
  | nil => simp [Memory.insert, Memory.lookup]
  | cons c m ih =>
    obtain ⟨a, b⟩ := c
    simp only [Memory.insert]
    split
    · simp [Memory.lookup]
    · split
      · subst_vars
        by_cases h : a = j <;> simp [Memory.lookup, h]
      · simp only [Memory.lookup, ih]
        by_cases h : a = j
        · have : i ≠ j := by omega
          simp [h, this]
        · simp [h]

@[simp] theorem Memory.lookup_insert_same (m : Memory) (i : Nat) (v : Byte) :
    Memory.lookup (Memory.insert m i v) i = some v := by simp [Memory.lookup_insert]

theorem Memory.lookup_insert_other {i j : Nat} (m : Memory) (v : Byte) (h : i ≠ j) :
    Memory.lookup (Memory.insert m i v) j = Memory.lookup m j := by simp [Memory.lookup_insert, h]

theorem Memory.risingFrom_mono {cap lo lo' : Nat} {m : Memory} (hm : Memory.risingFrom cap lo m = true)
    (h : lo' ≤ lo) : Memory.risingFrom cap lo' m = true := by
  cases m with
  | nil => rfl
  | cons c m =>
    simp only [Memory.risingFrom, Bool.and_eq_true, decide_eq_true_eq] at hm ⊢
    exact ⟨⟨by omega, hm.1.2⟩, hm.2⟩

theorem Memory.risingFrom_insert {cap i : Nat} (v : Byte) (hi : i < cap) :
    ∀ (m : Memory) (lo : Nat), Memory.risingFrom cap lo m = true → lo ≤ i →
      Memory.risingFrom cap lo (Memory.insert m i v) = true
  | [], lo, _, hlo => by simp [Memory.insert, Memory.risingFrom, hlo, hi]
  | (a, b) :: m, lo, hm, hlo => by
    simp only [Memory.risingFrom, Bool.and_eq_true, decide_eq_true_eq] at hm
    obtain ⟨⟨hla, ha⟩, hrest⟩ := hm
    simp only [Memory.insert]
    split
    · have : i + 1 ≤ a := by omega
      simp [Memory.risingFrom, hlo, hi, ha, this, hrest]
    · split
      · subst_vars
        simp [Memory.risingFrom, hlo, hi, hrest]
      · have h1 : a + 1 ≤ i := by omega
        simp [Memory.risingFrom, hla, ha, Memory.risingFrom_insert v hi m (a + 1) hrest h1]

/-- Writing a byte inside the buffer keeps the canonical form. -/
theorem Memory.wf_insert {cap i : Nat} {m : Memory} (v : Byte) (hm : Memory.wf cap m = true) (hi : i < cap) :
    Memory.wf cap (Memory.insert m i v) = true :=
  Memory.risingFrom_insert v hi m 0 hm (Nat.zero_le i)

/-- The empty list is in canonical form: nothing is written at reset. -/
@[simp] theorem Memory.wf_nil (cap : Nat) : Memory.wf cap [] = true := rfl

/-! ### A run of bytes -/

theorem Memory.lookup_writeBytes_outside (vs : List Byte) :
    ∀ (m : Memory) (i j : Nat), j < i ∨ i + vs.length ≤ j →
      Memory.lookup (Memory.writeBytes m i vs) j = Memory.lookup m j := by
  induction vs with
  | nil => intros; rfl
  | cons v vs ih =>
    intro m i j h
    simp only [List.length_cons] at h
    rw [Memory.writeBytes, ih _ _ _ (by omega), Memory.lookup_insert_other _ _ (by omega)]

theorem Memory.lookup_writeBytes_inside (vs : List Byte) :
    ∀ (m : Memory) (i k : Nat) (h : k < vs.length),
      Memory.lookup (Memory.writeBytes m i vs) (i + k) = some vs[k] := by
  induction vs with
  | nil => intro m i k h; simp at h
  | cons v vs ih =>
    intro m i k h
    cases k with
    | zero =>
      rw [Memory.writeBytes, Nat.add_zero, Memory.lookup_writeBytes_outside _ _ _ _ (by omega)]
      simp
    | succ k =>
      have hk : k < vs.length := by simpa using h
      have := ih (Memory.insert m i v) (i + 1) k hk
      rw [Memory.writeBytes, show i + (k + 1) = i + 1 + k by omega, this]
      simp

/-- Writing bytes inside the buffer keeps the canonical form. -/
theorem Memory.wf_writeBytes (cap : Nat) (vs : List Byte) :
    ∀ (m : Memory) (i : Nat), Memory.wf cap m = true → i + vs.length ≤ cap →
      Memory.wf cap (Memory.writeBytes m i vs) = true := by
  induction vs with
  | nil => intro m i hm _; exact hm
  | cons v vs ih =>
    intro m i hm h
    simp only [List.length_cons] at h
    exact ih _ _ (Memory.wf_insert v hm (by omega)) (by omega)

/-! ### A word with strobes -/

theorem Memory.lookup_writeLane (d : Word) (b : BitVec 4) (w : Nat) (m : Memory) (k j : Nat) :
    Memory.lookup (Memory.writeLane d b w m k) j =
      if b.getLsbD k = true ∧ w + k = j then some (lane d k) else Memory.lookup m j := by
  unfold Memory.writeLane
  split <;> simp_all [Memory.lookup_insert]

/-- Every index after a word write: the lane of an enabled strobe, or what it held. -/
theorem Memory.lookup_writeWord (d : Word) (b : BitVec 4) (w : Nat) (m : Memory) (j : Nat) :
    Memory.lookup (Memory.writeWord d b w m) j =
      if w ≤ j ∧ j < w + 4 ∧ b.getLsbD (j - w) = true then some (lane d (j - w)) else Memory.lookup m j := by
  simp only [Memory.writeWord, List.foldl_cons, List.foldl_nil, Memory.lookup_writeLane]
  by_cases hj : w ≤ j ∧ j < w + 4
  · obtain ⟨k, hk, rfl⟩ : ∃ k, k < 4 ∧ j = w + k := ⟨j - w, by omega, by omega⟩
    have : k = 0 ∨ k = 1 ∨ k = 2 ∨ k = 3 := by omega
    rcases this with rfl | rfl | rfl | rfl <;> simp
  · have h0 : ¬(w ≤ j ∧ j < w + 4 ∧ b.getLsbD (j - w) = true) := fun h => hj ⟨h.1, h.2.1⟩
    have hn : ∀ k, k < 4 → ¬(b.getLsbD k = true ∧ w + k = j) := fun k hk h => hj (by omega)
    rw [if_neg h0, if_neg (hn 3 (by omega)), if_neg (hn 2 (by omega)), if_neg (hn 1 (by omega)),
      if_neg (hn 0 (by omega))]

theorem Memory.wf_writeLane {cap w k : Nat} {m : Memory} (d : Word) (b : BitVec 4) (hm : Memory.wf cap m = true)
    (h : w + k < cap) : Memory.wf cap (Memory.writeLane d b w m k) = true := by
  unfold Memory.writeLane
  split
  · exact Memory.wf_insert _ hm h
  · exact hm

/-- Writing a word inside the buffer keeps the canonical form. -/
theorem Memory.wf_writeWord {cap w : Nat} {m : Memory} (d : Word) (b : BitVec 4) (hm : Memory.wf cap m = true)
    (h : w + 4 ≤ cap) : Memory.wf cap (Memory.writeWord d b w m) = true :=
  Memory.wf_writeLane d b
    (Memory.wf_writeLane d b
      (Memory.wf_writeLane d b (Memory.wf_writeLane d b hm (by omega)) (by omega)) (by omega)) (by omega)

/-! ### Bytes of the buffers -/

/-- A word write to PT_BUF, byte by byte. -/
theorem State.ptByte_writeWord (s t : State) (d : Word) (b : BitVec 4) (w j : Nat)
    (hbuf : t.ptBuf = Memory.writeWord d b w s.ptBuf) (hep : t.epoch = s.epoch) :
    t.ptByte j = if w ≤ j ∧ j < w + 4 ∧ b.getLsbD (j - w) = true then lane d (j - w) else s.ptByte j := by
  unfold State.ptByte
  rw [hbuf, hep, Memory.lookup_writeWord]
  split <;> simp

/-- PT_BUF's bytes depend on its written bytes and the reset they are counted from, and on nothing else. -/
theorem State.ptByte_congr {s t : State} (hbuf : t.ptBuf = s.ptBuf) (hep : t.epoch = s.epoch) (i : Nat) :
    t.ptByte i = s.ptByte i := by unfold State.ptByte; rw [hbuf, hep]

/-- OUT_BUF's bytes depend on its written bytes and the reset they are counted from, and on nothing else. -/
theorem State.outByte_congr {s t : State} (hbuf : t.outBuf = s.outBuf) (hep : t.epoch = s.epoch) (i : Nat) :
    t.outByte i = s.outByte i := by unfold State.outByte; rw [hbuf, hep]

end Sys2Proof.Machine
end

