-- ==== Sys2Proof/Laws/Payload.lean ====
section
/-! SUPPORT. The laws of blocks, padding lengths and payload lengths (R190 to R197). -/

namespace Sys2Proof.Machine

/-! ### Blocks and strings -/

@[simp] theorem Quad.bytes_length (q : Quad) : q.bytes.length = 4 := rfl

@[simp] theorem Block.bytes_length (b : Block) : b.bytes.length = 16 := rfl

@[simp] theorem flatMap_bytes_length (bs : List Block) : (bs.flatMap Block.bytes).length = 16 * bs.length := by
  induction bs with
  | nil => rfl
  | cons b bs ih => simp only [List.flatMap_cons, List.length_append, ih, Block.bytes_length, List.length_cons]; omega

@[simp] theorem blocksOf_length (q : List Byte) : (blocksOf q).length = q.length / 16 := by simp [blocksOf]

/-- Block 0 of a string that starts with a block's bytes. -/
@[simp] theorem blockAt_bytes_append (b : Block) (q : List Byte) : blockAt (b.bytes ++ q) 0 = b := rfl

/-- Block `i + 1` of a string that starts with a block's bytes is block `i` of the rest. -/
theorem blockAt_succ_append (b : Block) (q : List Byte) (i : Nat) : blockAt (b.bytes ++ q) (i + 1) = blockAt q i := by
  have h : ∀ n, (b.bytes ++ q).getD (16 + n) 0 = q.getD n 0 := by
    intro n
    rw [List.getD_append_right _ _ _ _ (by simp), Block.bytes_length, Nat.add_sub_cancel_left]
  unfold blockAt quadAt
  simp only [show 16 * (i + 1) = 16 + 16 * i by omega, Nat.add_assoc, h]

/-- The blocks of a string that starts with a block's bytes. -/
theorem blocksOf_append (b : Block) (q : List Byte) : blocksOf (b.bytes ++ q) = b :: blocksOf q := by
  have hl : (b.bytes ++ q).length / 16 = q.length / 16 + 1 := by
    simp only [List.length_append, Block.bytes_length]; omega
  simp only [blocksOf, hl, List.range_succ_eq_map, List.map_cons, blockAt_bytes_append, List.map_map]
  exact congrArg _ (List.map_congr_left fun i _ => blockAt_succ_append b q i)

/-- Cutting the concatenation of blocks into blocks gives the blocks back. -/
@[simp] theorem blocksOf_flatMap (bs : List Block) : blocksOf (bs.flatMap Block.bytes) = bs := by
  induction bs with
  | nil => rfl
  | cons b bs ih => rw [List.flatMap_cons, blocksOf_append, ih]

/-- The first 16 bytes of a long enough string are the bytes of its block 0. -/
theorem bytes_blockAt_zero (q : List Byte) (h : 16 ≤ q.length) : (blockAt q 0).bytes = q.take 16 := by
  match q, h with
  | a0 :: a1 :: a2 :: a3 :: a4 :: a5 :: a6 :: a7 :: a8 :: a9 :: a10 :: a11 :: a12 :: a13 :: a14 :: a15 :: q, _ => rfl

/-- A string of whole blocks is the concatenation of its blocks. -/
theorem flatMap_blocksOf (q : List Byte) (h : q.length % 16 = 0) : (blocksOf q).flatMap Block.bytes = q := by
  obtain ⟨m, hm⟩ : ∃ m, q.length = 16 * m := ⟨q.length / 16, by omega⟩
  clear h
  induction m generalizing q with
  | zero => rw [List.length_eq_zero_iff.mp (by omega : q.length = 0)]; rfl
  | succ m ih =>
    have h16 : 16 ≤ q.length := by omega
    have hd : (q.drop 16).length = 16 * m := by simp only [List.length_drop]; omega
    conv => lhs; rw [← List.take_append_drop 16 q, ← bytes_blockAt_zero q h16]
    rw [blocksOf_append, List.flatMap_cons, ih _ hd, bytes_blockAt_zero q h16, List.take_append_drop]

/-! ### Lengths -/

theorem padCount_bounds (n : Nat) : 1 ≤ padCount n ∧ padCount n ≤ 16 := by unfold padCount; omega

theorem pad_length (p : List Byte) : (pad p).length = p.length + padCount p.length := by simp [pad]

@[simp] theorem cbcBlocks_length (k : List Byte) (prev : Block) (qs : List Block) :
    (cbcBlocks k prev qs).length = qs.length := by
  induction qs generalizing prev with
  | nil => rfl
  | cons q qs ih => simp [cbcBlocks, ih]

theorem cbcEncrypt_length (k : List Byte) (iv : Block) (q : List Byte) :
    (cbcEncrypt k iv q).length = 16 * (q.length / 16) := by
  rw [cbcEncrypt, flatMap_bytes_length, cbcBlocks_length, blocksOf_length]

theorem payload_length_eq (k : List Byte) (iv : Block) (p : List Byte) :
    (payload k iv p).length = 16 + 16 * ((p.length + padCount p.length) / 16) := by
  simp [payload, cbcEncrypt_length, pad_length]

/-- The bytes of a payload before the ciphertext are the IV's. -/
theorem payload_getElem_iv (k : List Byte) (iv : Block) (p : List Byte) (i : Nat) (h : i < 16) :
    (payload k iv p)[i]? = iv.bytes[i]? := by
  unfold payload
  rw [List.getElem?_append_left (by simpa using h)]

end Sys2Proof.Machine
end

