-- ==== Sys2Proof/Laws/PerInstr.lean ====
section
/-! SUPPORT. The family RowFits: the encoding of every well-formed instruction fits the opcode-table row the
instruction stands for (30_encoding R81, R84, R91). One lemma a constructor. -/

namespace Sys2Proof.Laws.RowFits

open Sys2Proof

/-- The bits of a well-formed instruction's encoding, under the mask of its row, are the row's pattern. -/
def Statement (i : Instr) : Prop := ∀ maxPt : Nat, i.wf maxPt = true → i.row.fits (encode i).tableBits = true

/-- A row whose mask covers all 15 bits of the key is fitted by its pattern. -/
theorem fixedRow (k : Nat) (hk : k < 0x8000) : OpcodeRow.fits ⟨k, 0x7FFF, 3⟩ k = true := by
  simp only [OpcodeRow.fits, beq_iff_eq]
  rw [show (0x7FFF : Nat) = 2 ^ 15 - 1 from rfl, Nat.and_two_pow_sub_one_eq_mod]
  exact Nat.mod_eq_of_lt hk

theorem rdId : Statement .rdId := fun _ _ => by decide
theorem wrIdRo (d : Word) (b : BitVec 4) : Statement (.wrIdRo d b) := fun _ _ => fixedRow 0x4000 (by decide)
theorem rdCtrl : Statement .rdCtrl := fun _ _ => by decide
theorem wrCtrl (d : Word) (b : BitVec 4) : Statement (.wrCtrl d b) := fun _ _ => fixedRow 0x4004 (by decide)
theorem rdStatus : Statement .rdStatus := fun _ _ => by decide
theorem wrStatusRo (d : Word) (b : BitVec 4) : Statement (.wrStatusRo d b) := fun _ _ => fixedRow 0x4008 (by decide)
theorem rdPtLen : Statement .rdPtLen := fun _ _ => by decide
theorem wrPtLen (d : Word) (b : BitVec 4) : Statement (.wrPtLen d b) := fun _ _ => fixedRow 0x400C (by decide)
theorem rdOutLen : Statement .rdOutLen := fun _ _ => by decide
theorem wrOutLenRo (d : Word) (b : BitVec 4) : Statement (.wrOutLenRo d b) := fun _ _ => fixedRow 0x4010 (by decide)
theorem rdIvCfg : Statement .rdIvCfg := fun _ _ => by decide
theorem wrIvCfg (d : Word) (b : BitVec 4) : Statement (.wrIvCfg d b) := fun _ _ => fixedRow 0x4014 (by decide)
theorem rdIvDigits : Statement .rdIvDigits := fun _ _ => by decide
theorem wrIvDigits (d : Word) (b : BitVec 4) : Statement (.wrIvDigits d b) := fun _ _ => fixedRow 0x4018 (by decide)
theorem rdIrqEn : Statement .rdIrqEn := fun _ _ => by decide
theorem wrIrqEn (d : Word) (b : BitVec 4) : Statement (.wrIrqEn d b) := fun _ _ => fixedRow 0x401C (by decide)
theorem rdIvGroup : Statement .rdIvGroup := fun _ _ => by decide
theorem wrIvGroupRo (d : Word) (b : BitVec 4) : Statement (.wrIvGroupRo d b) := fun _ _ => fixedRow 0x4020 (by decide)
theorem rdCaps : Statement .rdCaps := fun _ _ => by decide
theorem wrCapsRo (d : Word) (b : BitVec 4) : Statement (.wrCapsRo d b) := fun _ _ => fixedRow 0x4024 (by decide)

/-- Under the mask 0x7003 every word offset of a window shows the window. -/
theorem windowMask : ∀ j, j < 1024 →
    (0x1000 + 4 * j) &&& 0x7003 = 0x1000 ∧ (0x5000 + 4 * j) &&& 0x7003 = 0x5000 ∧
      (0x2000 + 4 * j) &&& 0x7003 = 0x2000 ∧ (0x6000 + 4 * j) &&& 0x7003 = 0x6000 := by decide +kernel

theorem windowOffset_toNat {window : Nat} (hw : window < 3) (j : BitVec 10) :
    (windowOffset window j).toNat = 0x1000 * window + 4 * j.toNat := by
  have := j.isLt
  simp only [windowOffset, BitVec.toNat_ofNat]
  omega

theorem rdPtBuf (j : BitVec 10) : Statement (.rdPtBuf j) := fun _ _ => by
  simp only [Instr.row, encode, Encoding.tableBits, Transaction.key, OpcodeRow.fits, beq_iff_eq,
    windowOffset_toNat (window := 1) (by decide)]
  exact (windowMask j.toNat j.isLt).1

theorem wrPtBuf (j : BitVec 10) (d : Word) (b : BitVec 4) : Statement (.wrPtBuf j d b) := fun _ _ => by
  simp only [Instr.row, encode, Encoding.tableBits, Transaction.key, OpcodeRow.fits, beq_iff_eq,
    windowOffset_toNat (window := 1) (by decide), ← Nat.add_assoc]
  exact (windowMask j.toNat j.isLt).2.1

theorem rdOutBuf (j : BitVec 10) : Statement (.rdOutBuf j) := fun _ _ => by
  simp only [Instr.row, encode, Encoding.tableBits, Transaction.key, OpcodeRow.fits, beq_iff_eq,
    windowOffset_toNat (window := 2) (by decide)]
  exact (windowMask j.toNat j.isLt).2.2.1

theorem wrOutBufRo (j : BitVec 10) (d : Word) (b : BitVec 4) : Statement (.wrOutBufRo j d b) := fun _ _ => by
  simp only [Instr.row, encode, Encoding.tableBits, Transaction.key, OpcodeRow.fits, beq_iff_eq,
    windowOffset_toNat (window := 2) (by decide), ← Nat.add_assoc]
  exact (windowMask j.toNat j.isLt).2.2.2

theorem key_mod (t : Transaction) : t.key % 4 = t.off.toNat % 4 := by
  cases t <;> simp only [Transaction.key, Transaction.off]
  omega

theorem busErrMisalignedOdd (t : Transaction) : Statement (.busErrMisalignedOdd t) := fun _ h => by
  simp only [Instr.wf, oddOffset, decide_eq_true_eq] at h
  simp only [Instr.row, encode, Encoding.tableBits, OpcodeRow.fits, beq_iff_eq, Nat.and_one_is_mod]
  have := key_mod t
  omega

theorem busErrMisalignedHalf (t : Transaction) : Statement (.busErrMisalignedHalf t) := fun _ h => by
  simp only [Instr.wf, halfOffset, decide_eq_true_eq] at h
  simp only [Instr.row, encode, Encoding.tableBits, OpcodeRow.fits, beq_iff_eq]
  rw [show (3 : Nat) = 2 ^ 2 - 1 from rfl, Nat.and_two_pow_sub_one_eq_mod]
  have := key_mod t
  omega

theorem busErrUnmapped (t : Transaction) : Statement (.busErrUnmapped t) := fun _ _ => by
  simp [Instr.row, OpcodeRow.fits]

theorem nop : Statement .nop := fun _ _ => by decide
theorem encrypt : Statement .encrypt := fun _ _ => by decide
theorem genIv : Statement .genIv := fun _ _ => by decide
theorem clear : Statement .clear := fun _ _ => by decide
theorem illegal (c : Word) : Statement (.illegal c) := fun _ _ => by simp [Instr.row, OpcodeRow.fits]

end Sys2Proof.Laws.RowFits
end

