-- ==== Sys2Proof/Tests/Slice0.lean ====
section
/-! SUPPORT. Tests: expected values are those of spec/95_test_vectors.md (the vector is named in each comment) or are
written out by hand from the spec's encodings; and the witnesses of the statements' hypotheses. -/

namespace Sys2Proof.Tests

open Sys2Proof Sys2Proof.Machine

-- one theorem after the other: side by side they can need more threads than a memory limit allows
set_option Elab.async false

/-! ### Helpers -/

/-- The next state of an outcome, if it is one. -/
def nextOf : Host.Outcome State Fault Refusal → Option State
  | .next s => some s
  | .fault _ => none
  | .refused _ => none

/-- What an instruction answers. -/
def answer (i : Instr) (s : State) : Option Response := (nextOf (exec i s)).bind (·.response)

/-- STATUS after an instruction. -/
def statusAfter (i : Instr) (s : State) : Option Word := (nextOf (exec i s)).map (·.statusWord)

/-- `n` bytes from the hexadecimal number `v`, the first byte the most significant. -/
def hex (n v : Nat) : List Byte := (List.range n).map fun i => BitVec.ofNat 8 (v / 256 ^ (n - 1 - i))

/-- A block from a 32-digit hexadecimal number. -/
def blk (v : Nat) : Block := blockAt (hex 16 v) 0

/-- The test key TK of 95_test_vectors, `TESTKEY-16BYTES!`. -/
def testKey : List Byte := hex 16 0x544553544b45592d3136425954455321

/-- The reset state of the default build with the test key, BASE = 0x14000, irq on line 3. -/
def base : State := { State.reset with build := ⟨testKey, 1024, 5, 3⟩ }

/-- `base` with IV_SRC = 1 and the digits given. -/
def override (digits : BitVec 16) : State := { base with ivSrc := true, ivDigits := digits }

/-- "hello" in PT_BUF, PT_LEN = 5, digits 1,2,3,4. -/
def hello : State :=
  { override 0x4321 with ptLen := 5, ptBuf := [(0, 0x68), (1, 0x65), (2, 0x6C), (3, 0x6C), (4, 0x6F)] }

/-- `hello` right after its ENCRYPT was accepted. -/
def helloBusy : State := { hello with busy := true, ivValid := true, ivGroup := ⟨0x31, 0x32, 0x33, 0x34⟩ }

/-- A state with a payload of 32 bytes, the first 16 the IV of digits 1,2,3,4, STATUS 0x1A. -/
def ready : State :=
  { hello with
    done := true, outValid := true, ivValid := true, ivGroup := ⟨0x31, 0x32, 0x33, 0x34⟩, outLen := 32
    outBuf := [(0, 0x31), (1, 0x32), (2, 0x33), (3, 0x34), (4, 0x31), (5, 0x32), (6, 0x33), (7, 0x34), (8, 0x31),
      (9, 0x32), (10, 0x33), (11, 0x34), (12, 0x31), (13, 0x32), (14, 0x33), (15, 0x34), (16, 0xAA)] }

/-! ### Well-formedness: an ill-formed term for each check -/

theorem test_wf_pt_word : (Instr.rdPtBuf 255).wf 1024 = true ∧ (Instr.rdPtBuf 256).wf 1024 = false ∧
    (Instr.wrPtBuf 256 0 0).wf 1024 = false := by decide
theorem test_wf_out_word : (Instr.rdOutBuf 263).wf 1024 = true ∧ (Instr.rdOutBuf 264).wf 1024 = false ∧
    (Instr.wrOutBufRo 264 0 0).wf 1024 = false := by decide
theorem test_wf_misaligned : (Instr.busErrMisalignedOdd (.read 8)).wf 1024 = false ∧
    (Instr.busErrMisalignedHalf (.read 8)).wf 1024 = false ∧
    (Instr.busErrMisalignedHalf (.read 3)).wf 1024 = false := by decide
theorem test_wf_unmapped : (Instr.busErrUnmapped (.read 0)).wf 1024 = false ∧
    (Instr.busErrUnmapped (.read 0x29)).wf 1024 = false ∧ (Instr.busErrUnmapped (.read 0x28)).wf 1024 = true := by
  decide
theorem test_wf_illegal : (Instr.illegal 3).wf 1024 = false ∧ (Instr.illegal 4).wf 1024 = true := by decide
theorem test_build_wf : base.build.wf = true ∧ Build.wf ⟨testKey, 1000, 5, 3⟩ = false ∧ Build.wf ⟨testKey, 992, 5, 3⟩ = false ∧
    Build.wf ⟨testKey, 4080, 5, 3⟩ = false ∧ Build.wf ⟨List.replicate 256 0, 1024, 5, 3⟩ = false := by decide +kernel

/-! ### Decoding: keys and words written out from R82 and R84; K of V-BUS -/

theorem test_decode_register_reads :
    decodeTableWord 16 0x0000 = some .rdId ∧ decodeTableWord 16 0x0004 = some .rdCtrl ∧
    decodeTableWord 16 0x0008 = some .rdStatus ∧ decodeTableWord 16 0x000C = some .rdPtLen ∧
    decodeTableWord 16 0x0010 = some .rdOutLen ∧ decodeTableWord 16 0x0014 = some .rdIvCfg ∧
    decodeTableWord 16 0x0018 = some .rdIvDigits ∧ decodeTableWord 16 0x001C = some .rdIrqEn ∧
    decodeTableWord 16 0x0020 = some .rdIvGroup ∧ decodeTableWord 16 0x0024 = some .rdCaps := by decide
theorem test_decode_register_writes :
    decodeBus 1024 (.write 0x004 7 0xF) = .wrCtrl 7 0xF ∧ decodeBus 1024 (.write 0x00C 5 0xF) = .wrPtLen 5 0xF ∧
    decodeBus 1024 (.write 0x014 1 0xF) = .wrIvCfg 1 0xF ∧
    decodeBus 1024 (.write 0x018 0x4321 0x3) = .wrIvDigits 0x4321 0x3 ∧
    decodeBus 1024 (.write 0x01C 1 0xF) = .wrIrqEn 1 0xF := by decide
theorem test_decode_read_only_writes :
    decodeTableWord 16 0x4000 = some (.wrIdRo 0 0) ∧ decodeTableWord 16 0x4008 = some (.wrStatusRo 0 0) ∧
    decodeTableWord 16 0x4010 = some (.wrOutLenRo 0 0) ∧ decodeTableWord 16 0x4020 = some (.wrIvGroupRo 0 0) ∧
    decodeTableWord 16 0x4024 = some (.wrCapsRo 0 0) ∧ decodeTableWord 16 0x6000 = some (.wrOutBufRo 0 0 0) := by
  decide
/-- R102's corner cases: with MAX_PT = 1024 the last words are 0x13FC and 0x241C. -/
theorem test_decode_windows :
    decodeTableWord 16 0x13FC = some (.rdPtBuf 255) ∧
    decodeTableWord 16 0x1400 = some (.busErrUnmapped (.read 0x1400)) ∧
    decodeTableWord 16 0x241C = some (.rdOutBuf 263) ∧
    decodeTableWord 16 0x2420 = some (.busErrUnmapped (.read 0x2420)) ∧
    decodeBus 1024 (.write 0x1004 0x6F 1) = .wrPtBuf 1 0x6F 1 := by decide
theorem test_decode_bus_errors :
    decodeTableWord 16 0x0009 = some (.busErrMisalignedOdd (.read 0x009)) ∧
    decodeTableWord 16 0x4006 = some (.busErrMisalignedHalf (.write 0x006 0 0)) ∧
    decodeTableWord 16 0x0028 = some (.busErrUnmapped (.read 0x028)) ∧
    decodeTableWord 16 0x3000 = some (.busErrUnmapped (.read 0x3000)) := by decide
theorem test_decode_commands :
    decodeTableWord 32 0 = some .nop ∧ decodeTableWord 32 1 = some .encrypt ∧ decodeTableWord 32 2 = some .genIv ∧
    decodeTableWord 32 3 = some .clear ∧ decodeTableWord 32 4 = some (.illegal 4) ∧
    decodeTableWord 32 0x00000101 = some (.illegal 0x101) := by decide
theorem test_encode : encode (.rdPtBuf 255) = .bus (.read 0x13FC) ∧
    encode (.wrOutBufRo 263 7 5) = .bus (.write 0x241C 7 5) ∧ encode .clear = .command 3 := by decide

/-! ### Reads -/

/-- V-BUS-1 to V-BUS-10: the registers from reset. -/
theorem test_reads_from_reset :
    answer .rdId base = some ⟨.okay, some 0x43424301⟩ ∧ answer .rdCtrl base = some ⟨.okay, some 0⟩ ∧
    answer .rdStatus base = some ⟨.okay, some 0⟩ ∧ answer .rdPtLen base = some ⟨.okay, some 0⟩ ∧
    answer .rdOutLen base = some ⟨.okay, some 0⟩ ∧ answer .rdIvCfg base = some ⟨.okay, some 0⟩ ∧
    answer .rdIvDigits base = some ⟨.okay, some 0⟩ ∧ answer .rdIrqEn base = some ⟨.okay, some 0⟩ ∧
    answer .rdIvGroup base = some ⟨.okay, some 0⟩ ∧ answer .rdCaps base = some ⟨.okay, some 0x04000010⟩ := by decide
/-- R112's example, R114's, R121's, and fields read back. -/
theorem test_reads_ready :
    answer .rdStatus ready = some ⟨.okay, some 0x1A⟩ ∧ answer .rdOutLen ready = some ⟨.okay, some 32⟩ ∧
    answer .rdIvGroup ready = some ⟨.okay, some 0x34333231⟩ ∧ answer .rdPtLen ready = some ⟨.okay, some 5⟩ ∧
    answer .rdIvCfg ready = some ⟨.okay, some 1⟩ ∧ answer .rdIvDigits ready = some ⟨.okay, some 0x4321⟩ := by decide
/-- V-CMD-7's status word 0x041E. -/
theorem test_status_word : ({ ready with err := true, errCode := .illegalCmd } : State).statusWord = 0x41E := by decide
/-- R109's example: after `load_pt "hello"`, `rd PT_BUF+0` is 0x6C6C6568. -/
theorem test_rd_pt_buf : answer (.rdPtBuf 0) helloBusy = some ⟨.okay, some 0x6C6C6568⟩ := by decide
/-- R111: the payload while valid, 0 past OUT_LEN (P3 step 12), 0 while OUT_VALID = 0 (V-BUS-12, V-BUS-18). -/
theorem test_rd_out_buf : answer (.rdOutBuf 0) ready = some ⟨.okay, some 0x34333231⟩ ∧
    answer (.rdOutBuf 8) ready = some ⟨.okay, some 0⟩ ∧
    answer (.rdOutBuf 0) { ready with outValid := false } = some ⟨.okay, some 0⟩ ∧
    answer (.rdOutBuf 263) base = some ⟨.okay, some 0⟩ := by decide

/-! ### Writes -/

/-- V-BUS-26 to V-BUS-28 (and V-BUS-25). -/
theorem test_register_writes :
    (nextOf (exec (.wrPtLen 0xFFFFFFFF 0xF) base)).map (·.ptLen) = some 0xFFFF ∧
    (nextOf (exec (.wrPtLen 0x00010005 0xF) base)).map (·.ptLen) = some 5 ∧
    (nextOf (exec (.wrIvCfg 0xFFFFFFFF 0xF) base)).map (·.ivSrc) = some true ∧
    (nextOf (exec (.wrIvDigits 0x1234FA98 0xF) base)).map (·.ivDigits) = some 0xFA98 := by decide
/-- V-BUS-34 and R120's example: never locked, irq at once. -/
theorem test_wr_irq_en : (nextOf (exec (.wrIrqEn 0xFFFFFFFF 0xF) helloBusy)).map (·.doneIe) = some true ∧
    (nextOf (exec (.wrIrqEn 1 0xF) ready)).map (·.irq) = some true ∧ ready.irq = false := by decide
/-- V-BUS-30: only byte 4 is written; V-BUS-31: strobes 0 change nothing. -/
theorem test_wr_pt_buf : (nextOf (exec (.wrPtBuf 1 0x0000006F 1) base)).map (·.ptBuf) = some [(4, 0x6F)] ∧
    (nextOf (exec (.wrPtBuf 2 0x12345678 0) hello)).map (·.ptBuf) = some hello.ptBuf := by decide
theorem test_wr_pt_buf_lanes : (nextOf (exec (.wrPtBuf 0 0xDDCCBBAA 0xA) hello)).map (·.ptBuf) =
    some [(0, 0x68), (1, 0xBB), (2, 0x6C), (3, 0xDD), (4, 0x6F)] := by decide
/-- V-BUS-20 to V-BUS-24, V-BUS-36: bus errors, VIOL unchanged while BUSY. -/
theorem test_bus_error_writes :
    answer (.wrIdRo 0 0xF) base = some ⟨.slverr, some 0⟩ ∧ answer (.wrStatusRo 0xFFFFFFFF 0xF) helloBusy =
    some ⟨.slverr, some 0⟩ ∧ statusAfter (.wrStatusRo 0 0xF) helloBusy = some 0x11 ∧
    answer (.wrPtLen 5 1) base = some ⟨.slverr, some 0⟩ ∧
    (nextOf (exec (.wrPtLen 5 1) base)).map (·.ptLen) = some 0 := by decide
/-- V-BUS-13, V-BUS-14: misaligned and unmapped reads. -/
theorem test_bus_error_reads :
    answer (decodeBus 1024 (.read 0x009)) base = some ⟨.slverr, some 0⟩ ∧
    answer (decodeBus 1024 (.read 0x028)) base = some ⟨.slverr, some 0⟩ := by decide
/-- V-BUS-33, V-BUS-35: the busy lock, and NOP under it. -/
theorem test_busy_lock :
    (nextOf (exec (.wrPtLen 5 0xF) { helloBusy with ptLen := 9 })).map (·.ptLen) = some 9 ∧
    statusAfter (.wrPtLen 5 0xF) helloBusy = some 0x31 ∧ answer (.wrPtLen 5 0xF) helloBusy = some ⟨.okay, none⟩ ∧
    statusAfter (.wrPtBuf 0 5 0) helloBusy = some 0x31 ∧ statusAfter (.wrCtrl 0 0xF) helloBusy = some 0x11 := by decide

/-! ### Commands -/

/-- V-CMD-1, V-CMD-2. -/
theorem test_nop : statusAfter .nop base = some 0 ∧ statusAfter .nop ready = some 0x1A := by decide
/-- V-CMD-3: the issue of ENCRYPT. -/
theorem test_encrypt_issue : statusAfter .encrypt hello = some 0x11 ∧
    (nextOf (exec .encrypt hello)).map (·.ivGroup) = some ⟨0x31, 0x32, 0x33, 0x34⟩ := by decide
/-- V-CMD-9 to V-CMD-12, V-CMD-14, W-4: the codes and their order. -/
theorem test_encrypt_fails :
    statusAfter .encrypt { base with ptLen := 1025 } = some 0x206 ∧
    statusAfter .encrypt { override 0x000A with ptLen := 5 } = some 0x306 ∧
    statusAfter .encrypt { override 0x000A with ptLen := 2000 } = some 0x206 ∧
    statusAfter .encrypt { override 0x000A with ptLen := 2000, build := ⟨hex 5 0, 1024, 5, 3⟩ } = some 0x106 ∧
    statusAfter .encrypt { ready with ptLen := 1025 } = some 0x216 := by decide
/-- V-CMD-4, V-IV-2, V-CMD-13: GEN_IV. -/
theorem test_gen_iv : statusAfter .genIv (override 0x6789) = some 0x12 ∧
    answer .rdIvGroup { base with ivGroup := ⟨0x39, 0x38, 0x37, 0x36⟩ } = some ⟨.okay, some 0x36373839⟩ ∧
    (nextOf (exec .genIv (override 0x6789))).map (·.ivGroup) = some ⟨0x39, 0x38, 0x37, 0x36⟩ ∧
    statusAfter .genIv { override 0x4321 with build := ⟨hex 5 0, 1024, 5, 3⟩ } = some 0x12 := by decide
/-- V-IV-5 to V-IV-7. -/
theorem test_gen_iv_fails : statusAfter .genIv (override 0x000A) = some 0x306 ∧
    statusAfter .genIv (override 0xA000) = some 0x306 ∧ statusAfter .genIv (override 0xFA98) = some 0x306 := by decide
/-- V-IV-8: drawn digits give ASCII bytes, whatever they are, and STATUS 0x12. -/
theorem test_gen_iv_drawn : statusAfter .genIv base = some 0x12 ∧
    (nextOf (exec .genIv base)).map (·.fresh) = some 4 := by decide
/-- V-CMD-5, V-CMD-15. -/
theorem test_clear : statusAfter .clear { base with done := true, err := true, viol := true, errCode := .illegalCmd } =
    some 0 ∧ (nextOf (exec .clear ready)).map (·.outLen) = some 0 ∧ statusAfter .clear helloBusy = some 0x31 := by
  decide
/-- V-CMD-6 to V-CMD-8. -/
theorem test_illegal : statusAfter (.wrCtrl 4 0xF) base = some 0x406 ∧ statusAfter (.illegal 0x101) ready = some 0x41E ∧
    statusAfter (.wrCtrl 0xFFFFFFFF 0xF) ready = some 0x41E := by decide
/-- R107's example, and a partial strobe issues no command. -/
theorem test_wr_ctrl : (nextOf (exec (.wrCtrl 2 0xF) (override 0x4321))).map (·.ivGroup) =
    some ⟨0x31, 0x32, 0x33, 0x34⟩ ∧ statusAfter (.wrCtrl 2 7) (override 0x4321) = some 0 := by decide

/-! ### Padding, the cipher, the payload -/

/-- W-1, W-2, W-3 and V-PAD: the pad bytes. -/
theorem test_pad : pad (hex 5 0x68656c6c6f) = hex 16 0x68656c6c6f0b0b0b0b0b0b0b0b0b0b0b ∧
    pad [] = List.replicate 16 0x10 ∧ (pad (List.replicate 16 0x41)).length = 32 ∧
    pad (List.replicate 17 0x41) = List.replicate 17 0x41 ++ List.replicate 15 0x0F := by decide
/-- V-AES-1 (FIPS 197 C.1). -/
theorem test_aes_128 : Aes.blockEnc (hex 16 0x000102030405060708090a0b0c0d0e0f)
    (blk 0x00112233445566778899aabbccddeeff) = blk 0x69c4e0d86a7b0430d8cdb78070b4c55a := by decide +kernel
/-- V-AES-2 (FIPS 197 C.2). -/
theorem test_aes_192 : Aes.blockEnc (hex 24 0x000102030405060708090a0b0c0d0e0f1011121314151617)
    (blk 0x00112233445566778899aabbccddeeff) = blk 0xdda97ca4864cdfe06eaf70a0ec0d7191 := by decide +kernel
/-- V-AES-3 (FIPS 197 C.3). -/
theorem test_aes_256 : Aes.blockEnc
    (hex 32 0x000102030405060708090a0b0c0d0e0f101112131415161718191a1b1c1d1e1f)
    (blk 0x00112233445566778899aabbccddeeff) = blk 0x8ea2b7ca516745bfeafc49904b496089 := by decide +kernel
/-- V-AES-4 (FIPS 197 B). -/
theorem test_aes_fips_b : Aes.blockEnc (hex 16 0x2b7e151628aed2a6abf7158809cf4f3c)
    (blk 0x3243f6a8885a308d313198a2e0370734) = blk 0x3925841d02dc09fbdc118597196a0b32 := by decide +kernel
/-- R218's check values w[4] and w[43]. -/
theorem test_key_schedule : (Aes.keyExpansion 4 (hex 16 0x2b7e151628aed2a6abf7158809cf4f3c))[4]? =
    some ⟨0xa0, 0xfa, 0xfe, 0x17⟩ ∧ (Aes.keyExpansion 4 (hex 16 0x2b7e151628aed2a6abf7158809cf4f3c))[43]? =
    some ⟨0xb6, 0x63, 0x0c, 0xa6⟩ := by decide +kernel
/-- V-CBC-1 (SP 800-38A F.2.1), blocks 1 and 2. -/
theorem test_cbc : cbcEncrypt (hex 16 0x2b7e151628aed2a6abf7158809cf4f3c) (blk 0x000102030405060708090a0b0c0d0e0f)
    (hex 32 0x6bc1bee22e409f96e93d7e117393172aae2d8a571e03ac9c9eb76fac45af8e51) =
    hex 32 0x7649abac8119b246cee98e9b12e9197d5086cb9b507219ee95db113a917678b2 := by decide +kernel

/-- What a read of OUT_BUF word `j` answers after one step of `s`. -/
def outWordAfterStep (s : State) (j : BitVec 10) : Option Response := (nextOf (step s)).bind (answer (.rdOutBuf j))

/-- V-ENC-1, one completion: words 4 and 7 of the payload, and STATUS 0x1A (V-CMD-3). -/
theorem test_completion_words : outWordAfterStep helloBusy 4 = some ⟨.okay, some 0x5B83CBFC⟩ ∧
    outWordAfterStep helloBusy 7 = some ⟨.okay, some 0x764F6C50⟩ := by decide +kernel
theorem test_completion_status : (nextOf (step helloBusy)).map (·.statusWord) = some 0x1A ∧
    (nextOf (step helloBusy)).map (·.outLen) = some 32 := by decide +kernel
/-- V-ENC-3: a full block, OUT_LEN 48, blocks 1 and 2. -/
theorem test_full_block : payload testKey (ivOfGroup ⟨0x39, 0x38, 0x37, 0x36⟩)
    (hex 16 0x30313233343536373839616263646566) =
    hex 48 0x393837363938373639383736393837362f0e3dae914003d4e082c077f2b835ca4cf3b811a9dc6258bb510f7af0f6ad33 := by
  decide +kernel
/-- V-ENC-9: a 24-byte key. -/
theorem test_key_24 : cbcEncrypt (hex 24 0x000102030405060708090a0b0c0d0e0f1011121314151617)
    (ivOfGroup ⟨0x31, 0x32, 0x33, 0x34⟩) (pad (hex 5 0x68656c6c6f)) = hex 16 0xf56980a87fd9d45d147f95ed3c8091b1 := by
  decide +kernel

/-! ### Steps -/

/-- A pending transaction is served; a pending command word reaches the block in its write to CTRL. -/
theorem test_fetch : (nextOf (step (State.reset.withFetchWord 16 0x0000))).bind (·.response) =
    some ⟨.okay, some 0x43424301⟩ ∧
    (nextOf (step (State.reset.withFetchWord 32 0x00000004))).map (·.statusWord) = some 0x406 := by decide
/-- R272: reset during an ENCRYPT; R9: a build that is none is refused. -/
theorem test_reset_aborts :
    (nextOf (step { helloBusy with events := [.reset true] })).map (fun t => (t.statusWord, t.outLen, t.resetHeld)) =
      some (0, 0, true) ∧
    nextOf (step { base with build := ⟨testKey, 1000, 5, 3⟩ }) = none := by decide

/-! ### The aperture, and completion -/

/-- R63: BASE = 5 * 16 KiB; its first and last byte, and the bytes beside it. -/
theorem test_aperture : base.build.base = 0x14000 ∧ base.build.transaction (.read 0x14008) = some (.read 8) ∧
    base.build.transaction (.write 0x17FFC 7 1) = some (.write 0x3FFC 7 1) ∧
    base.build.transaction (.read 0x13FFC) = none ∧ base.build.transaction (.read 0x18000) = none := by decide
/-- V-BUS-1 by bus address; an access beside the aperture leaves the last answer. -/
theorem test_access : (nextOf (step { base with events := [.access (.read 0x14000)] })).bind (·.response) =
      some ⟨.okay, some 0x43424301⟩ ∧
    nextOf (step { ready with events := [.access (.write 0x18004 3 0xF)] }) = some ready := by decide
/-- R152: NOP and CLEAR are complete right after their write, an accepted ENCRYPT is not. -/
theorem test_operation_complete : base.operationComplete 0 = true ∧ base.operationComplete 3 = true ∧
    base.operationComplete 2 = false ∧ helloBusy.operationComplete 0 = true ∧ helloBusy.operationComplete 1 = false ∧
    ready.operationComplete 1 = true := by decide
/-- An ENCRYPT in progress, then reset, its release, and a GEN_IV. -/
def abortedHello : State :=
  { helloBusy with events := [.reset true, .reset false, .host (.write 4 2 0xF)] }
/-- R272: the GEN_IV after the reset is complete three steps on, but the reset is the next step of the ENCRYPT; releasing
an input that was not asserted is no reset. -/
theorem test_reset_next : abortedHello.resetNext = true ∧
    (match core.run 3 abortedHello with | .next t => t.operationComplete 1 | _ => false) = true ∧
    ({ helloBusy with events := [.reset false] } : State).resetNext = false ∧ helloBusy.resetNext = false := by decide
theorem test_irq_line : ({ ready with doneIe := true } : State).irqOnLine 3 = true ∧
    ({ ready with doneIe := true } : State).irqOnLine 4 = false := by decide

/-! ### Witnesses: for each statement with hypotheses, states and operands that meet them, a clause each -/

/-- The group of digits 1,2,3,4. -/
theorem digits1234 : IsDigitGroup ⟨0x31, 0x32, 0x33, 0x34⟩ :=
  ⟨1, 2, 3, 4, by decide, by decide, by decide, by decide, by decide⟩

/-- The invariant holds of a state with a payload. -/
theorem invariant_ready : Invariant ready where
  build := by decide
  errDone := by decide
  errCode := by decide
  errIdle := by decide
  busyDone := by decide
  outIdle := by decide
  outNone := by decide
  outLen := by decide
  outIv := fun _ => ⟨_, digits1234, by decide⟩
  ivGroup := fun _ => digits1234
  ivNone := by decide
  busyIv := by decide
  busyLen := by decide
  busyKey := by decide
  ptBuf := by decide
  outBuf := by decide
  held := nofun

/-- The invariant holds of a state with an ENCRYPT in progress. -/
theorem invariant_helloBusy : Invariant helloBusy where
  build := by decide
  errDone := by decide
  errCode := by decide
  errIdle := by decide
  busyDone := by decide
  outIdle := by decide
  outNone := by decide
  outLen := by decide
  outIv := nofun
  ivGroup := fun _ => digits1234
  ivNone := by decide
  busyIv := by decide
  busyLen := by decide
  busyKey := by decide
  ptBuf := by decide
  outBuf := by decide
  held := nofun

/-- A failed state with each code. -/
def failed (code : ErrCode) : State := { base with done := true, err := true, errCode := code }

theorem witness_StatusReadShowsEveryFlagAtItsBit :
    Invariant ready ∧ ready.errCode = .none ∧ (failed .keySize).errCode = .keySize ∧
    (failed .lenRange).errCode = .lenRange ∧ (failed .ivDigit).errCode = .ivDigit ∧
    (failed .illegalCmd).errCode = .illegalCmd := ⟨invariant_ready, rfl, rfl, rfl, rfl, rfl⟩
/-- The bounds of R9. -/
theorem witness_CapsReadShowsKeyLengthAndCapacity :
    Build.wf ⟨[], 1008, 5, 3⟩ = true ∧ Build.wf ⟨List.replicate 255 0, 4064, 5, 3⟩ = true := by decide +kernel
theorem witness_PtBufReadIsTheLittleEndianWord : 4 * (255 : BitVec 10).toNat < base.build.maxPt ∧ (3 : Nat) < 4 := by
  decide
theorem witness_OutBufReadIsGated :
    4 * (263 : BitVec 10).toNat < base.build.maxPt + 32 ∧ (helloBusy.busy = true ∧ Invariant helloBusy) :=
  ⟨by decide, rfl, invariant_helloBusy⟩
theorem witness_RegisterWritesStoreTheirField : hello.busy = false := rfl
theorem witness_IrqEnWriteIsNeverLocked : ready.done = true ∧ (1 : Word).getLsbD 0 = true := by decide
theorem witness_PtBufWriteChangesExactlyTheStrobedBytes :
    hello.busy = false ∧ 4 * (255 : BitVec 10).toNat < hello.build.maxPt ∧
    hello.ptLen.toNat ≤ 4 * (2 : BitVec 10).toNat ∧ (0x7 : BitVec 4).getLsbD 2 = true ∧
    (0x7 : BitVec 4).getLsbD 3 = false := by decide
theorem witness_ReadOnlyAndPartialWritesAreBusErrors : (0x7 : BitVec 4) ≠ 0xF := by decide
/-- Odd and half offsets; the first and last unmapped offsets; and the last implemented ones. -/
theorem witness_MisalignedAndUnmappedAreBusErrors :
    (Transaction.read 0x009).off.toNat % 4 ≠ 0 ∧ (Transaction.read 0x009).off.toNat % 2 = 1 ∧
    (Transaction.write 0x006 0 0).off.toNat % 4 ≠ 0 ∧ (Transaction.write 0x006 0 0).off.toNat % 4 = 2 ∧
    ∀ k ∈ [0x028, 0xFFC, 0x1400, 0x1FFC, 0x2420, 0x3FFC], ∃ off, off = (transactionOfKey k).off.toNat ∧
      off % 4 = 0 ∧ 0x028 ≤ off ∧ (off < 0x1000 ∨ 0x1000 + base.build.maxPt ≤ off) ∧
      (off < 0x2000 ∨ 0x2000 + (base.build.maxPt + 32) ≤ off) := by
  simp only [exists_eq_left]
  decide
theorem witness_ImplementedOffsets :
    base.build.wf = true ∧ ∀ k ∈ [0x024, 0x1000, 0x13FC, 0x2000, 0x241C], ∃ off, off = (transactionOfKey k).off.toNat ∧
      off % 4 = 0 ∧ (off < 0x028 ∨ (0x1000 ≤ off ∧ off < 0x1000 + base.build.maxPt) ∨
        (0x2000 ≤ off ∧ off < 0x2000 + (base.build.maxPt + 32))) := by
  simp only [exists_eq_left]
  decide
theorem witness_BusyLockSetsViolAndNothingElse :
    helloBusy.busy = true ∧ ((0x004 : BitVec 14) = 0x004 ∧ (3 : Word) ≠ 0) ∧
    ∀ k ∈ [0x1000, 0x13FC], ∃ off, off = (transactionOfKey k).off.toNat ∧
      off % 4 = 0 ∧ 0x1000 ≤ off ∧ off < 0x1000 + helloBusy.build.maxPt ∧ off < 0x2000 := by
  simp only [exists_eq_left]
  decide
theorem witness_CtrlWritePerformsItsCommand :
    4 ≤ (4 : Word).toNat ∧ 4 ≤ (0xFFFFFFFF : Word).toNat ∧ (0xE : BitVec 4) ≠ 0xF := by decide
theorem witness_CommandsWhileBusyAreIgnored : helloBusy.busy = true ∧ 4 ≤ (4 : Word).toNat := by decide
/-- Both sources of the digits; the longest plaintext; a zero length. -/
theorem witness_AcceptedEncryptBeginsTheOperation :
    (base.busy = false ∧ base.build.key.length = 16 ∧ base.ptLen.toNat ≤ base.build.maxPt ∧ base.ivSrc = false) ∧
    (hello.busy = false ∧ hello.build.key.length = 16 ∧ ({ hello with ptLen := 1024 } : State).ptLen.toNat ≤ 1024 ∧
      hello.ivSrc = true ∧ ∀ k, k < 4 → (0x9999 : BitVec 16).toNat / 16 ^ k % 16 ≤ 9) := by decide
theorem witness_FirstFailingCheckDecidesTheCode :
    ¬((hex 5 0).length = 16 ∨ (hex 5 0).length = 24 ∨ (hex 5 0).length = 32) ∧ base.busy = false ∧
    (base.build.key.length = 16 ∧ base.build.maxPt < ({ base with ptLen := 1025 } : State).ptLen.toNat) ∧
    (base.build.key.length = 16 ∧ (override 0xA000).ptLen.toNat ≤ (override 0xA000).build.maxPt ∧
      (override 0xA000).ivSrc = true ∧ ∃ k, k < 4 ∧ 9 < (override 0xA000).ivDigits.toNat / 16 ^ k % 16) := by
  refine ⟨by decide, by decide, by decide, by decide, by decide, by decide, 3, by decide⟩
theorem witness_GenIvMakesAGroupOrFails :
    ((override 0x9999).busy = false ∧ (override 0x9999).ivSrc = true ∧
      ∀ k, k < 4 → (override 0x9999).ivDigits.toNat / 16 ^ k % 16 ≤ 9) ∧
    (base.busy = false ∧ base.ivSrc = false) ∧
    ((override 0x000A).busy = false ∧ (override 0x000A).ivSrc = true ∧
      ∃ k, k < 4 ∧ 9 < (override 0x000A).ivDigits.toNat / 16 ^ k % 16) := by
  refine ⟨by decide, by decide, by decide, by decide, 0, by decide⟩
theorem witness_ClearClearsStatusAndOutputs : ready.busy = false ∧ helloBusy.busy = true := by decide
theorem witness_IllegalCommandFails : ready.busy = false ∧ 4 ≤ (0x101 : Word).toNat := by decide
theorem witness_DigitsAreDrawnOnlyToMakeAGroup :
    (∃ t, exec .encrypt base = .next t ∧ t.fresh = base.fresh + 4) ∧
    ∃ t, exec (.wrCtrl 2 0xF) base = .next t ∧ t.fresh = base.fresh + 4 := ⟨⟨_, rfl, rfl⟩, _, rfl, rfl⟩
/-- Lengths 0, 5 and 1024. -/
theorem witness_CompletionStoresThePayload :
    ∀ n ∈ [0, 5, 1024], ∃ s, s = { helloBusy with ptLen := BitVec.ofNat 16 n, events := [.engine] } ∧
      s.build.wf = true ∧ s.busy = true ∧ s.resetHeld = false ∧ s.ptLen.toNat ≤ s.build.maxPt ∧
      s.events = [.engine] := by
  simp only [exists_eq_left]
  decide
theorem witness_CompletionNotEnabled :
    ({ ready with events := [.engine] } : State).build.wf = true ∧
    ({ ready with events := [.engine] } : State).events = .engine :: [] ∧ ready.busy = false := by decide
theorem witness_BusyAlwaysEnds :
    ({ helloBusy with events := [.host (.read 8)] } : State).build.wf = true ∧ helloBusy.busy = true ∧
    helloBusy.resetHeld = false ∧
    ∀ e ∈ ({ helloBusy with events := [.host (.read 8)] } : State).events, ∀ a, e ≠ Event.reset a := by
  refine ⟨by decide, rfl, rfl, ?_⟩
  simp
theorem witness_OnlyCompletionOrResetEndsBusy :
    (∃ t, step { helloBusy with events := [.reset true] } = .next t ∧ t.busy = false) ∧
    (∃ t, step { helloBusy with events := [.reset false], resetHeld := true } = .next t ∧ t.busy = false) ∧
    (nextOf (step helloBusy)).map (·.busy) = some false := ⟨⟨_, rfl, rfl⟩, ⟨_, rfl, rfl⟩, by decide +kernel⟩
theorem witness_OperandsAreStableWhileBusy :
    (∃ t, step { helloBusy with events := [.host (.write 0x00C 9 0xF)] } = .next t) ∧ helloBusy.busy = true ∧
    ∀ a rest, ({ helloBusy with events := [.host (.write 0x00C 9 0xF)] } : State).events ≠ .reset a :: rest := by
  refine ⟨⟨_, rfl⟩, rfl, ?_⟩
  simp
theorem witness_CompletionRaceKeepsThePayload :
    helloBusy.busy = true ∧ (∃ a, exec (.wrPtLen 9 0xF) helloBusy = .next a) ∧
    (∃ a, exec (.wrPtBuf 0 9 0xF) helloBusy = .next a) ∧
    (∃ b, exec (.wrPtLen 9 0xF) helloBusy.complete = .next b) := ⟨rfl, ⟨_, rfl⟩, ⟨_, rfl⟩, _, rfl⟩
/-- Byte 5 is the first past "hello". -/
theorem witness_BytesPastTheLengthAreIgnored :
    ∀ i, i < hello.ptLen.toNat →
      ({ hello with ptBuf := hello.ptBuf ++ [(5, 0xFF)] } : State).ptByte i = hello.ptByte i := by
  intro i hi
  have h : i < 5 := hi
  interval_cases i <;> rfl
theorem witness_PadAddsItsOwnCount : (0x0B : Byte) ∈ (pad (hex 5 0x68656c6c6f)).drop 5 ∧
    32 % 16 = 0 ∧ (hex 16 0).length < 32 := by decide
theorem witness_CbcBlocksFollowTheChain : (hex 32 0).length % 16 = 0 ∧ 1 < (hex 32 0).length / 16 := by decide
theorem witness_PayloadLengthAndLayout :
    Build.wf ⟨testKey, 1024, 5, 3⟩ = true ∧ (List.replicate 1024 (0 : Byte)).length = 1024 :=
  ⟨by decide, List.length_replicate⟩
/-- Nothing in common but the IV; one block in common; and one block of two in common, whole blocks. -/
theorem witness_PayloadPrefixProperty :
    ((hex 32 5).take 16 = (hex 32 6).take 16 ∧ (hex 32 5).length % 16 = 0 ∧ (hex 32 6).length % 16 = 0) ∧
    (16 * 0 < (hex 1 5).length ∧ 16 * 0 < (hex 1 6).length ∧ (hex 1 5).take 0 = (hex 1 6).take 0) ∧
    (16 * 1 < (hex 17 5).length ∧ 16 * 1 < (hex 18 6).length ∧ (hex 17 5).take 16 = (hex 18 6).take 16) := by decide
theorem witness_BlockTransformIsAPermutation :
    (hex 16 0).length = 16 ∧ (hex 24 0).length = 24 ∧ (hex 32 0).length = 32 := by decide
theorem witness_PayloadRoundTrip : testKey.length = 16 := by decide
theorem witness_SboxTableIsTheFormula : (0x53 : Byte) ≠ 0 := by decide
/-- Each key length; the first word made from others, and the last. -/
theorem witness_KeyScheduleRecurrence :
    ∀ nk ∈ [4, 6, 8], (hex (4 * nk) 1).length = 4 * nk ∧ nk < 4 * (nk + 7) ∧
      ((Aes.keyExpansion nk (hex (4 * nk) 1))[nk - 1]?).isSome = true ∧
      ((Aes.keyExpansion nk (hex (4 * nk) 1))[4 * (nk + 7) - 1]?).isSome = true := by decide +kernel
theorem witness_RoundFunctionsMatchTheMatrixForm : (3 : Nat) < 4 := by decide
theorem witness_IvSpaceHasTenThousandMembers : IsDigitGroup ⟨0x31, 0x32, 0x33, 0x34⟩ := digits1234
theorem witness_EveryGroupMadeIsADigitGroup :
    (∃ t, exec .genIv (override 0x4321) = .next t ∧ t.ivGroup ≠ (override 0x4321).ivGroup) ∧
    ∃ t, exec .clear ready = .next t ∧ t.ivGroup ≠ ready.ivGroup := ⟨⟨_, rfl, by decide⟩, _, rfl, by decide⟩
theorem witness_EveryTransactionIsAnswered : helloBusy.busy = true := rfl
theorem witness_InvariantIsKeptByEveryStep :
    Invariant ready ∧ Invariant helloBusy ∧ (∃ t, step ready = .next t) ∧ ∃ t, step helloBusy = .next t :=
  ⟨invariant_ready, invariant_helloBusy, ⟨_, rfl⟩, _, rfl⟩
theorem witness_OnlyHostWritesChangePtBuf :
    ∃ t, exec (.wrPtBuf 1 0x61 1) hello = .next t ∧ t.ptByte 4 ≠ hello.ptByte 4 := ⟨_, rfl, by decide⟩
theorem witness_OnlyCompletionChangesOutBuf :
    (∃ t, exec .clear ready = .next t) ∧
    (nextOf (step { helloBusy with outBuf := [(0, 0x39)] })).map (·.outByte 0 == 0x39) = some false :=
  ⟨⟨_, rfl⟩, by decide +kernel⟩
theorem witness_OutValidRisesOnlyAtCompletion :
    (∃ t, exec .genIv ready = .next t ∧ t.outValid = true) ∧ helloBusy.outValid = false ∧
    (nextOf (step helloBusy)).map (·.outValid) = some true := ⟨⟨_, rfl, rfl⟩, rfl, by decide +kernel⟩
theorem witness_ViolIsSticky :
    (helloBusy.viol = false ∧ ∃ t, exec .clear helloBusy = .next t ∧ t.viol = true) ∧
    (∃ t, exec .clear { ready with viol := true } = .next t ∧ t.viol = false) ∧
    (∃ t, step { ready with viol := true, events := [.host (.write 4 3 0xF)] } = .next t ∧ t.viol = false) ∧
    ((nextOf (step { ready with viol := true, events := [.access (.write 0x14004 3 0xF)] })).map (·.viol) =
      some false) ∧
    ∃ t, step { ready with viol := true, events := [.reset true] } = .next t ∧ t.viol = false :=
  ⟨⟨rfl, _, rfl, rfl⟩, ⟨_, rfl, rfl⟩, ⟨_, rfl, rfl⟩, by decide, _, rfl, rfl⟩
theorem witness_IrqRisesOnlyWithDoneOrEnable :
    (∃ t, exec .genIv { base with doneIe := true } = .next t ∧ ({ base with doneIe := true } : State).irq = false ∧
      t.irq = true) ∧
    ∃ t, exec (.wrIrqEn 1 0xF) ready = .next t ∧ ready.irq = false ∧ t.irq = true :=
  ⟨⟨_, rfl, rfl, rfl⟩, _, rfl, rfl, rfl⟩
theorem witness_KeyNeverReachesTheBus : (hex 16 0).length = base.build.key.length := by decide
/-- A stale byte past OUT_LEN, and stale bytes while OUT_VALID = 0, before an ENCRYPT's completion. -/
theorem witness_GateHidesStaleBytes :
    (SameBehindGate ready { ready with outBuf := ready.outBuf ++ [(32, 0x77)] } ∧ ∃ t, step ready = .next t) ∧
    (SameBehindGate helloBusy { helloBusy with outBuf := [(0, 0x77)] } ∧ ∃ t, step helloBusy = .next t) := by
  refine ⟨⟨⟨rfl, fun _ i hi => ?_⟩, _, rfl⟩, ⟨rfl, fun h => ?_⟩, _, rfl⟩
  · have h : i < 32 := hi
    interval_cases i <;> rfl
  · cases h
theorem witness_DecodeInvertsEncode :
    ∀ i ∈ [Instr.rdPtBuf 0, .rdPtBuf 255, .wrPtBuf 255 7 0, .rdOutBuf 263, .wrOutBufRo 263 0 0xF,
        .busErrMisalignedOdd (.read 0x3FFF), .busErrMisalignedHalf (.write 2 0 0), .busErrUnmapped (.read 0x1400),
        .illegal 4, .illegal 0xFFFFFFFF],
      i.wf 1024 = true := by decide
theorem witness_EncodeInvertsDecode : Config.maxPt ≤ 4064 := by decide
/-- A pending read of STATUS. -/
theorem witness_StepRunsTheDecodedTransaction :
    ({ ready with events := [.host (.read 8)] } : State).build.wf = true ∧
    ({ ready with events := [.host (.read 8)] } : State).resetHeld = false := by decide
/-- A pending command word, in the write that carries it, and a pending read. -/
theorem witness_StepRunsTheCarriedInstruction :
    ready.build.wf = true ∧ ready.resetHeld = false ∧
    ({ ready with events := [.host (.write 4 2 0xF)] } : State).events = .host (Encoding.command 2).carrier :: [] ∧
    ({ ready with events := [.host (.read 8)] } : State).events = .host (Encoding.bus (.read 8)).carrier :: [] := by
  decide
theorem witness_ResetInputRestoresTheResetValues :
    helloBusy.build.wf = true ∧
    ({ helloBusy with events := [.reset true] } : State).events = .reset true :: [] ∧
    (∃ t, step { helloBusy with events := [.reset true, .host (.read 8)] } = .next t ∧ t.resetHeld = true ∧
      t.events = [.host (.read 8)]) ∧
    ∃ t, step { helloBusy with events := [.reset true, .reset false, .host (.read 8)] } = .next t ∧
      t.resetHeld = true ∧ t.events = [.reset false, .host (.read 8)] :=
  ⟨by decide, rfl, ⟨_, rfl, rfl, rfl⟩, _, rfl, rfl, rfl⟩
/-- The last offset, and the addresses right below and above the aperture. -/
theorem witness_AccessesReachTheBlockInItsAperture :
    base.build.wf = true ∧
    ({ base with events := [.access (.read 0x17FFF)] } : State).events =
      .access (.read (base.build.base + (0x3FFF : BitVec 14).toNat)) :: [] ∧
    ({ base with events := [.access (.write 0x14004 1 0xF)] } : State).events =
      .access (.write (base.build.base + (0x004 : BitVec 14).toNat) 1 0xF) :: [] ∧
    (Access.read 0x13FFF).addr < base.build.base ∧ base.build.base + 0x4000 ≤ (Access.read 0x18000).addr := by decide
/-- An illegal word; an ENCRYPT that fails its check; an accepted one with a transaction pending. -/
theorem witness_OperationsCompleteAsDefined :
    (base.busy = false ∧ (4 : Word) ≠ 1) ∧
    ((override 0x000A).busy = false ∧ ∃ t, exec (.wrCtrl 1 0xF) (override 0x000A) = .next t ∧ t.err = true) ∧
    (hello.busy = false ∧ (∃ t, exec (.wrCtrl 1 0xF) hello = .next t ∧ t.err = false) ∧ hello.build.wf = true ∧
      hello.resetHeld = false ∧
      ∀ e ∈ ({ hello with events := [.host (.read 8)] } : State).events, ∀ a, e ≠ Event.reset a) ∧
    ((∃ rest, abortedHello.events = .reset true :: rest) ∧ abortedHello.operationComplete 1 = false) :=
  ⟨by decide, ⟨rfl, _, rfl, rfl⟩, ⟨rfl, ⟨_, rfl, rfl⟩, by decide, rfl, by simp⟩, ⟨_, rfl⟩, by decide⟩

end Sys2Proof.Tests
end

/-! ## Proofs: the aperture and the interrupt line (00_scope, 20_memory, 60_exceptions)

What a step does with a transaction, and with an access inside or outside the aperture, is said once as an equation of
`step` for each head of `events`; the obligation is read off from these and the laws of the aperture. -/

namespace Sys2Proof.Machine

/-- `BASE` is aligned to the aperture's 16 KiB. -/
theorem base_mod_aperture (b : Build) : b.base % 0x4000 = 0 :=
  Nat.mul_mod_right 0x4000 b.aperture

/-- `irq` is seen on the build's line alone, and there as DONE and DONE_IE. -/
theorem State.irqOnLine_iff (s : State) (n : Nat) :
    s.irqOnLine n = true ↔ n = s.build.irqLine ∧ s.done = true ∧ s.doneIe = true := by
  simp [State.irqOnLine, State.irq]

/-- A step with a host transaction next performs it. -/
theorem step_of_host {s : State} {x : Transaction} {rest : List Event} (hw : s.build.wf = true)
    (he : s.events = .host x :: rest) : step s = hostStep x { s with events := rest } := by
  simp [step, hw, he]

/-- A step with an access next does with it what the aperture says. -/
theorem step_of_access {s : State} {a : Access} {rest : List Event} (hw : s.build.wf = true)
    (he : s.events = .access a :: rest) : step s = accessStep a { s with events := rest } := by
  simp [step, hw, he]

/-- An access that the aperture makes the transaction `x` is stepped as the host's transaction `x` (R63). -/
theorem step_access_eq_step_host {s : State} {a : Access} {x : Transaction} {rest : List Event}
    (hw : s.build.wf = true) (he : s.events = .access a :: rest) (hx : s.build.transaction a = some x) :
    step s = step { s with events := .host x :: rest } :=
  calc step s
    _ = accessStep a { s with events := rest } := step_of_access hw he
    _ = hostStep x { s with events := rest } := by simp [accessStep, hx]
    _ = step { s with events := .host x :: rest } :=
        (step_of_host (s := { s with events := .host x :: rest }) hw rfl).symm

/-- An access outside the aperture is taken from the list and changes nothing else (R66). -/
theorem step_access_outside {s : State} {a : Access} {rest : List Event}
    (hw : s.build.wf = true) (he : s.events = .access a :: rest)
    (ha : a.addr < s.build.base ∨ s.build.base + 0x4000 ≤ a.addr) :
    step s = .next { s with events := rest } := by
  have hx : s.build.transaction a = none := (Build.transaction_eq_none_iff s.build a).mpr ha
  simp [step_of_access hw he, accessStep, hx]

/-- Settles O59: the step equations of an access, with the transaction it is at `BASE + off` and none outside. -/
theorem accessesReachTheBlockInItsAperture : Obligations.AccessesReachTheBlockInItsAperture := by
  intro s
  refine ⟨base_mod_aperture s.build, s.irqOnLine_iff, fun rest hw => ⟨?read, ?write, ?outside⟩⟩
  case read =>
    intro off he
    exact step_access_eq_step_host hw he (Build.transaction_read s.build off)
  case write =>
    intro off d b he
    exact step_access_eq_step_host hw he (Build.transaction_write s.build off d b)
  case outside =>
    intro a he ha
    exact step_access_outside hw he ha

end Sys2Proof.Machine

/-! ## Proofs: the state and its invariants (10_state, with 40_bus_access, 41_commands, 70_reset_and_hazards)

First what every instruction and every kind of step leaves alone, read off once from `ExecCase` and `step_cases`; then
the safety statements about PT_BUF, OUT_BUF, OUT_VALID and VIOL, which are short uses of these. -/

namespace Sys2Proof.Machine

/-! ### What an instruction leaves alone -/

/-- All that an accepted ENCRYPT can write. -/
theorem State.issueEncrypt_writes (s : State) : ∃ b d e c v g n,
    s.issueEncrypt = { s with
      busy := b, done := d, err := e, errCode := c, ivValid := v, ivGroup := g, fresh := n
      outValid := false, outLen := 0 } := by
  rcases s.issueEncrypt_cases with ⟨_, _, _, h⟩ | ⟨_, _, _, _, h⟩
  · exact ⟨_, _, _, _, _, _, _, h⟩
  · exact ⟨_, _, _, _, _, _, _, h⟩

/-- All that an accepted GEN_IV can write. -/
theorem State.generateIv_writes (s : State) : ∃ d e c v g n,
    s.generateIv = { s with done := d, err := e, errCode := c, ivValid := v, ivGroup := g, fresh := n } := by
  rcases s.generateIv_cases with ⟨_, _, h⟩ | ⟨_, _, _, h⟩
  · exact ⟨_, _, _, _, _, _, h⟩
  · exact ⟨_, _, _, _, _, _, h⟩

/-- What no instruction changes: OUT_BUF, the build, the reset input, what is pending, and the number of resets. -/
structure ExecFrame (s t : State) : Prop where
  outBuf : t.outBuf = s.outBuf
  build : t.build = s.build
  resetHeld : t.resetHeld = s.resetHeld
  events : t.events = s.events
  epoch : t.epoch = s.epoch

theorem exec_frame {i : Instr} {s t : State} (h : exec i s = .next t) : ExecFrame s t := by
  cases exec_inv h with
  | encrypt _ _ ht =>
    obtain ⟨_, _, _, _, _, _, _, he⟩ := s.issueEncrypt_writes
    rw [ht, he]
    exact ⟨rfl, rfl, rfl, rfl, rfl⟩
  | genIv _ _ ht =>
    obtain ⟨_, _, _, _, _, _, hg⟩ := s.generateIv_writes
    rw [ht, hg]
    exact ⟨rfl, rfl, rfl, rfl, rfl⟩
  | read _ ht | busError ht | violation _ ht | nop ht | ptLen _ _ ht | ivSrc _ _ ht | ivDigits _ _ ht
  | doneIe _ _ ht | ptBuf _ _ _ _ _ _ ht | clear _ _ ht | illegal _ _ ht =>
    rw [ht]
    exact ⟨rfl, rfl, rfl, rfl, rfl⟩

/-- PT_BUF is left alone by all instructions but a write of one of its words while BUSY = 0. -/
theorem exec_ptBuf {i : Instr} {s t : State} (h : exec i s = .next t) :
    t.ptBuf = s.ptBuf ∨
    ∃ j d b, i = .wrPtBuf j d b ∧ s.busy = false ∧ wordInside s.build.maxPt j = true ∧
      t.ptBuf = Memory.writeWord d b (wordIndex j) s.ptBuf := by
  cases exec_inv h with
  | ptBuf hb d b j hi hj ht => exact .inr ⟨j, d, b, hi, hb, hj, by rw [ht]; rfl⟩
  | encrypt _ _ ht =>
    obtain ⟨_, _, _, _, _, _, _, he⟩ := s.issueEncrypt_writes
    exact .inl (by rw [ht, he]; rfl)
  | genIv _ _ ht =>
    obtain ⟨_, _, _, _, _, _, hg⟩ := s.generateIv_writes
    exact .inl (by rw [ht, hg]; rfl)
  | read _ ht | busError ht | violation _ ht | nop ht | ptLen _ _ ht | ivSrc _ _ ht | ivDigits _ _ ht
  | doneIe _ _ ht | clear _ _ ht | illegal _ _ ht => exact .inl (by rw [ht]; rfl)

/-- An instruction that leaves OUT_VALID at 1 found it so and left OUT_LEN alone. -/
theorem exec_outValid {i : Instr} {s t : State} (h : exec i s = .next t) (hv : t.outValid = true) :
    s.outValid = true ∧ t.outLen = s.outLen := by
  cases exec_inv h with
  | encrypt _ _ ht =>
    obtain ⟨_, _, _, _, _, _, _, he⟩ := s.issueEncrypt_writes
    rw [ht, he] at hv
    cases hv
  | clear _ _ ht => rw [ht] at hv; cases hv
  | genIv _ _ ht =>
    obtain ⟨_, _, _, _, _, _, hg⟩ := s.generateIv_writes
    rw [ht, hg] at hv ⊢
    exact ⟨hv, rfl⟩
  | read _ ht | busError ht | violation _ ht | nop ht | ptLen _ _ ht | ivSrc _ _ ht | ivDigits _ _ ht
  | doneIe _ _ ht | ptBuf _ _ _ _ _ _ ht | illegal _ _ ht =>
    rw [ht] at hv ⊢
    exact ⟨hv, rfl⟩

/-- VIOL is left alone by all instructions but one ignored under BUSY, which sets it, and CLEAR, which clears it. -/
theorem exec_viol {i : Instr} {s t : State} (h : exec i s = .next t) :
    t.viol = s.viol ∨ (s.busy = true ∧ t = s.violation) ∨
    (s.busy = false ∧ (i = .clear ∨ i = .wrCtrl 3 0xF) ∧ t.viol = false) := by
  cases exec_inv h with
  | violation hb ht => exact .inr (.inl ⟨hb, ht⟩)
  | clear hi hb ht => exact .inr (.inr ⟨hb, hi, by rw [ht]; rfl⟩)
  | encrypt _ _ ht =>
    obtain ⟨_, _, _, _, _, _, _, he⟩ := s.issueEncrypt_writes
    exact .inl (by rw [ht, he]; rfl)
  | genIv _ _ ht =>
    obtain ⟨_, _, _, _, _, _, hg⟩ := s.generateIv_writes
    exact .inl (by rw [ht, hg]; rfl)
  | read _ ht | busError ht | nop ht | ptLen _ _ ht | ivSrc _ _ ht | ivDigits _ _ ht
  | doneIe _ _ ht | ptBuf _ _ _ _ _ _ ht | illegal _ _ ht => exact .inl (by rw [ht]; rfl)

theorem exec_outByte {i : Instr} {s t : State} (h : exec i s = .next t) (k : Nat) : t.outByte k = s.outByte k :=
  State.outByte_congr (exec_frame h).outBuf (exec_frame h).epoch k

/-! ### What a step can do -/

/-- The kinds of step: `step_cases` with the two ways of stepping the engine put together. -/
inductive StepCase (s t : State) : Prop where
  | engine (rest : List Event) (he : s.events = [] ∨ s.events = .engine :: rest)
      (h : t = { s with events := rest }.engineStep)
  | reset (a : Bool) (rest : List Event) (he : s.events = .reset a :: rest)
      (h : t = { s with events := rest }.resetInput a)
  | elsewhere (a : Access) (rest : List Event) (he : s.events = .access a :: rest)
      (hx : s.build.transaction a = none) (h : t = { s with events := rest })
  | underReset (e : Event) (x : Transaction) (rest : List Event) (he : s.events = e :: rest)
      (hx : BringsTransaction s.build e x) (hr : s.resetHeld = true) (h : t = { s with events := rest }.replyUnderReset)
  | performed (e : Event) (x : Transaction) (rest : List Event) (he : s.events = e :: rest)
      (hx : BringsTransaction s.build e x) (hr : s.resetHeld = false)
      (h : exec (decodeBus s.build.maxPt x) { s with events := rest } = .next t)

theorem step_inv {s t : State} (h : step s = .next t) : StepCase s t := by
  rcases (step_cases h).2 with ⟨he, ht⟩ | ⟨rest, he, ht⟩ | ⟨a, rest, he, ht⟩ | ⟨a, rest, he, hx, ht⟩ |
    ⟨e, x, rest, he, hx, hr, ht⟩ | ⟨e, x, rest, he, hx, hr, ht⟩
  · exact .engine s.events (.inl he) ht
  · exact .engine rest (.inr he) ht
  · exact .reset a rest he ht
  · exact .elsewhere a rest he hx ht
  · exact .underReset e x rest he hx hr ht
  · exact .performed e x rest he hx hr ht

/-- Only a transaction given by its offset or an access by bus address reaches the block. -/
theorem BringsTransaction.host_or_access {b : Build} {e : Event} {x : Transaction} (h : BringsTransaction b e x) :
    e = .host x ∨ ∃ a, e = .access a := by
  rcases h with h | ⟨a, h, _⟩
  · exact .inl h
  · exact .inr ⟨a, h⟩

/-- The engine never touches PT_BUF or VIOL. -/
theorem State.engineStep_frame (s : State) :
    s.engineStep.ptBuf = s.ptBuf ∧ s.engineStep.epoch = s.epoch ∧ s.engineStep.viol = s.viol := by
  rcases s.engineStep_cases with ⟨_, _, h⟩ | ⟨_, h⟩ <;> rw [h] <;> exact ⟨rfl, rfl, rfl⟩

/-- A change of the reset input applies the reset values or, released without having been asserted, does nothing. -/
theorem State.resetInput_cases (s : State) (a : Bool) :
    (∃ held, s.resetInput a = { s.holdReset with resetHeld := held }) ∨ s.resetInput a = s := by
  unfold State.resetInput
  split
  · exact .inl ⟨true, rfl⟩
  · split
    · exact .inl ⟨false, rfl⟩
    · exact .inr rfl

/-- A completion stores its payload at the front of OUT_BUF. -/
theorem State.outByte_storePayload (s : State) (pay : List Byte) {i : Nat} (h : i < pay.length) :
    (s.storePayload pay).outByte i = pay[i] := by
  have hlook := Memory.lookup_writeBytes_inside pay s.outBuf 0 i h
  rw [Nat.zero_add] at hlook
  simp [State.outByte, hlook]

/-! ### The safety statements -/

/-- Settles O45: only a word write changes PT_BUF, and `Memory.lookup_writeWord` bounds its reach. -/
theorem onlyHostWritesChangePtBuf : Obligations.OnlyHostWritesChangePtBuf := by
  refine ⟨fun i s t k h hne => ?_, fun s k => ?_⟩
  · have hep := (exec_frame h).epoch
    rcases exec_ptBuf h with hbuf | ⟨j, d, b, hi, hb, hj, hbuf⟩
    · exact absurd (State.ptByte_congr hbuf hep k) hne
    · rw [State.ptByte_writeWord s t d b _ k hbuf hep] at hne
      by_cases hk : wordIndex j ≤ k ∧ k < wordIndex j + 4 ∧ b.getLsbD (k - wordIndex j) = true
      · exact ⟨j, d, b, hi, hb, of_decide_eq_true hj, hk.1, hk.2.1⟩
      · rw [if_neg hk] at hne
        exact absurd rfl hne
  · obtain ⟨hbuf, hep, _⟩ := s.engineStep_frame
    exact State.ptByte_congr hbuf hep k

/-- Settles O46: no instruction touches OUT_BUF, so a step that does is the engine's completion or a reset. -/
theorem onlyCompletionChangesOutBuf : Obligations.OnlyCompletionChangesOutBuf := by
  refine ⟨fun i s t k h => exec_outByte h k, fun s t k h hne => ?_⟩
  cases step_inv h with
  | engine rest _ ht =>
    rcases State.engineStep_cases { s with events := rest } with ⟨hb, _, he⟩ | ⟨_, he⟩
    · exact .inl ⟨hb, by rw [ht, he]; rfl, by rw [ht, he]; rfl⟩
    · exact absurd (by rw [ht, he]; rfl) hne
  | reset a rest he _ => exact .inr ⟨a, rest, he⟩
  | elsewhere _ _ _ _ ht | underReset _ _ _ _ _ _ ht => exact absurd (by rw [ht]; rfl) hne
  | performed _ _ _ _ _ _ hx => exact absurd (exec_outByte hx k) hne

/-- Settles O47: only the engine's completion raises OUT_VALID, and `outByte_storePayload` reads the payload back. -/
theorem outValidRisesOnlyAtCompletion : Obligations.OutValidRisesOnlyAtCompletion := by
  refine ⟨fun i s t h hv => exec_outValid h hv, fun s t h hs hv => ?_⟩
  have stays : t.outValid = s.outValid → False := fun heq => by rw [heq, hs] at hv; cases hv
  cases step_inv h with
  | engine rest _ ht =>
    rcases State.engineStep_cases { s with events := rest } with ⟨hb, _, he⟩ | ⟨_, he⟩
    · rw [ht, he]
      exact ⟨hb, rfl, rfl, rfl, fun i hi => State.outByte_storePayload _ _ hi⟩
    · exact (stays (by rw [ht, he])).elim
  | reset a rest _ ht =>
    rcases State.resetInput_cases { s with events := rest } a with ⟨_, he⟩ | he
    · rw [ht, he] at hv; cases hv
    · exact (stays (by rw [ht, he])).elim
  | elsewhere _ _ _ _ ht | underReset _ _ _ _ _ _ ht => exact (stays (by subst ht; rfl)).elim
  | performed _ _ _ _ _ _ hx => exact (stays (hv.trans (exec_outValid hx hv).1.symm)).elim

/-- Settles O48: `exec_viol` for the instructions; of the steps only the engine's, which leaves VIOL alone, is none of
those named. -/
theorem violIsSticky : Obligations.ViolIsSticky := by
  refine ⟨fun i s t h => ⟨fun hs ht => ?set, fun hs ht => ?clear⟩, fun s t h hs hv => ?step⟩
  case set =>
    rcases exec_viol h with heq | ⟨hb, rfl⟩ | ⟨_, _, hf⟩
    · rw [heq, hs] at ht; cases ht
    · exact ⟨hb, rfl⟩
    · rw [hf] at ht; cases ht
  case clear =>
    rcases exec_viol h with heq | ⟨_, rfl⟩ | ⟨hb, hi, _⟩
    · rw [heq, hs] at ht; cases ht
    · cases ht
    · exact ⟨hb, hi⟩
  case step =>
    cases step_inv h with
    | engine rest _ ht =>
      rw [ht, (State.engineStep_frame { s with events := rest }).2.2, hs] at hv
      cases hv
    | reset a rest he _ => exact .inr (.inr ⟨a, rest, he⟩)
    | elsewhere a rest he _ _ => exact .inr (.inl ⟨a, rest, he⟩)
    | underReset e x rest he hx _ _ | performed e x rest he hx _ _ =>
      rcases hx.host_or_access with rfl | ⟨a, rfl⟩
      · exact .inl ⟨x, rest, he⟩
      · exact .inr (.inl ⟨a, rest, he⟩)

end Sys2Proof.Machine

/-! ## Proofs: what a host cannot see (10_state R42, R47)

The key, and the bytes of OUT_BUF behind the gate, are changed together by `withHidden`, with which every instruction
commutes. Both noninterference statements follow. -/

namespace Sys2Proof.Machine

/-- `s` with other values of what the host cannot see: the key, and the bytes of OUT_BUF behind the gate. -/
def State.withHidden (s : State) (key : List Byte) (m : Memory) : State :=
  { s with build := { s.build with key := key }, outBuf := m }

/-- Another key alone. -/
theorem State.withHidden_key {s t : State} (key : List Byte) (h : t.outBuf = s.outBuf) :
    t.withHidden key s.outBuf = t.withKey key := by rw [← h]; rfl

/-- Another OUT_BUF alone. -/
theorem State.withHidden_outBuf {s t : State} (m : Memory) (h : t.build = s.build) :
    t.withHidden s.build.key m = { t with outBuf := m } := by rw [← h]; rfl

section
variable {key : List Byte} {m : Memory}

/-! ### The commands -/

theorem State.makeGroup_withHidden (s : State) :
    (s.withHidden key m).makeGroup = (s.makeGroup.1, s.makeGroup.2.withHidden key m) := by
  cases h : s.ivSrc <;> simp [State.makeGroup, State.withHidden, h]

/-- The checks of R144 see no more of the key than its length. -/
theorem State.encryptCheck_withHidden {s : State} (hk : key.length = s.build.key.length) :
    (s.withHidden key m).encryptCheck = s.encryptCheck := by
  simp [State.encryptCheck, State.withHidden, hk]

theorem State.beginEncrypt_withHidden (s : State) :
    (s.withHidden key m).beginEncrypt = s.beginEncrypt.withHidden key m := by
  unfold State.beginEncrypt
  rw [State.makeGroup_withHidden]
  rcases s.makeGroup with ⟨_ | g, u⟩ <;> rfl

theorem State.issueEncrypt_withHidden {s : State} (hk : key.length = s.build.key.length) :
    (s.withHidden key m).issueEncrypt = s.issueEncrypt.withHidden key m := by
  have hpro : (s.withHidden key m).encryptPrologue = s.encryptPrologue.withHidden key m := rfl
  unfold State.issueEncrypt
  rw [hpro, State.encryptCheck_withHidden (s := s.encryptPrologue) hk]
  cases s.encryptPrologue.encryptCheck with
  | some code => rfl
  | none => exact s.encryptPrologue.beginEncrypt_withHidden

theorem State.generateIv_withHidden (s : State) :
    (s.withHidden key m).generateIv = s.generateIv.withHidden key m := by
  have hack : (s.withHidden key m).acknowledge = s.acknowledge.withHidden key m := rfl
  unfold State.generateIv
  rw [hack, State.makeGroup_withHidden]
  rcases s.acknowledge.makeGroup with ⟨_ | g, u⟩ <;> rfl

/-! ### The instructions -/

/-- Run from `s` with other hidden values, `f` answers the same next state with those hidden values. -/
def CommutesWithHidden (key : List Byte) (m : Memory) (f : State → Host.Outcome State Fault Refusal) (s : State) : Prop :=
  ∃ t, f s = .next t ∧ f (s.withHidden key m) = .next (t.withHidden key m)

theorem CommutesWithHidden.of_eq {f : State → State} {s : State}
    (h : f (s.withHidden key m) = (f s).withHidden key m) : CommutesWithHidden key m (fun s => .next (f s)) s :=
  ⟨f s, rfl, congrArg _ h⟩

theorem CommutesWithHidden.command {effect : State → State} {s : State}
    (h : effect (s.withHidden key m) = (effect s).withHidden key m) :
    CommutesWithHidden key m (fun s => .next (s.command effect)) s := by
  refine .of_eq ?_
  have hbusy : (s.withHidden key m).busy = s.busy := rfl
  unfold State.command
  rw [hbusy, h]
  cases s.busy <;> rfl

theorem CommutesWithHidden.writeRegister {effect : State → State} {s : State} (strb : BitVec 4) (locked : Bool)
    (h : effect (s.withHidden key m) = (effect s).withHidden key m) :
    CommutesWithHidden key m (fun s => .next (s.writeRegister strb locked effect)) s := by
  refine .of_eq ?_
  have hbusy : (s.withHidden key m).busy = s.busy := rfl
  unfold State.writeRegister
  rw [hbusy, h]
  cases fullStrobes strb <;> cases (locked && s.busy) <;> rfl

theorem execEncrypt_withHidden {s : State} (hk : key.length = s.build.key.length) :
    CommutesWithHidden key m execEncrypt s := .command (State.issueEncrypt_withHidden hk)

theorem execGenIv_withHidden (s : State) : CommutesWithHidden key m execGenIv s := .command s.generateIv_withHidden

theorem execClear_withHidden (s : State) : CommutesWithHidden key m execClear s := .command rfl

theorem execIllegal_withHidden (c : Word) (s : State) : CommutesWithHidden key m (execIllegal c) s := .command rfl

theorem execWrCtrl_withHidden {s : State} (hk : key.length = s.build.key.length) (d : Word) (b : BitVec 4) :
    CommutesWithHidden key m (execWrCtrl d b) s := by
  unfold CommutesWithHidden execWrCtrl
  split
  · exact CommutesWithHidden.of_eq (f := State.busError) rfl
  · split
    · exact CommutesWithHidden.of_eq (f := State.writeOkay) rfl
    · split
      · exact execEncrypt_withHidden hk
      · split
        · exact execGenIv_withHidden s
        · split
          · exact execClear_withHidden s
          · exact execIllegal_withHidden d s

theorem execRdPtBuf_withHidden (j : BitVec 10) (s : State) : CommutesWithHidden key m (execRdPtBuf j) s := by
  have hbuild : (s.withHidden key m).build.maxPt = s.build.maxPt := rfl
  unfold CommutesWithHidden execRdPtBuf
  rw [hbuild]
  split <;> exact ⟨_, rfl, rfl⟩

theorem execWrPtBuf_withHidden (j : BitVec 10) (d : Word) (b : BitVec 4) (s : State) :
    CommutesWithHidden key m (execWrPtBuf j d b) s := by
  have hbuild : (s.withHidden key m).build.maxPt = s.build.maxPt := rfl
  have hbusy : (s.withHidden key m).busy = s.busy := rfl
  unfold CommutesWithHidden execWrPtBuf
  rw [hbuild, hbusy]
  split
  · split <;> exact ⟨_, rfl, rfl⟩
  · exact ⟨_, rfl, rfl⟩

/-- A read of OUT_BUF shows the gated bytes only. -/
theorem execRdOutBuf_withHidden {s : State} (hg : ∀ i, (s.withHidden key m).gatedOutByte i = s.gatedOutByte i)
    (j : BitVec 10) : CommutesWithHidden key m (execRdOutBuf j) s := by
  have hbuild : (s.withHidden key m).build.outCap = s.build.outCap := rfl
  unfold CommutesWithHidden execRdOutBuf
  rw [hbuild]
  simp only [hg]
  split <;> exact ⟨_, rfl, rfl⟩

/-- CAPS shows the key's length only. -/
theorem execRdCaps_withHidden {s : State} (hk : key.length = s.build.key.length) :
    CommutesWithHidden key m execRdCaps s := by
  have hcaps : Build.capsWord (s.withHidden key m).build = Build.capsWord s.build := by
    simp [Build.capsWord, State.withHidden, hk]
  refine .of_eq ?_
  rw [hcaps]
  rfl

/-- With a key of the same length and the same gated bytes, every instruction does the same and answers the same. -/
theorem exec_withHidden (i : Instr) {s : State} (hk : key.length = s.build.key.length)
    (hg : ∀ i, (s.withHidden key m).gatedOutByte i = s.gatedOutByte i) : CommutesWithHidden key m (exec i) s := by
  cases i with
  | rdId | rdCtrl | rdStatus | rdPtLen | rdOutLen | rdIvCfg | rdIvDigits | rdIrqEn | rdIvGroup => exact .of_eq rfl
  | wrIdRo | wrStatusRo | wrOutLenRo | wrIvGroupRo | wrCapsRo | wrOutBufRo | busErrMisalignedOdd
  | busErrMisalignedHalf | busErrUnmapped => exact .of_eq rfl
  | rdCaps => exact execRdCaps_withHidden hk
  | rdPtBuf j => exact execRdPtBuf_withHidden j s
  | rdOutBuf j => exact execRdOutBuf_withHidden hg j
  | wrPtBuf j d b => exact execWrPtBuf_withHidden j d b s
  | wrPtLen d b | wrIvCfg d b | wrIvDigits d b => exact .writeRegister b true rfl
  | wrIrqEn d b => exact .writeRegister b false rfl
  | wrCtrl d b => exact execWrCtrl_withHidden hk d b
  | nop => exact .of_eq rfl
  | encrypt => exact execEncrypt_withHidden hk
  | genIv => exact execGenIv_withHidden s
  | clear => exact execClear_withHidden s
  | illegal c => exact execIllegal_withHidden c s

end

/-- Settles O50: another key alone is another hidden value, and the gate shows the same OUT_BUF. -/
theorem keyNeverReachesTheBus : Obligations.KeyNeverReachesTheBus := by
  intro i s key hk
  obtain ⟨t, ht, ht'⟩ := exec_withHidden (m := s.outBuf) i hk fun _ => rfl
  rw [State.withHidden_key key rfl, State.withHidden_key key (exec_frame ht).outBuf] at ht'
  exact ⟨t, ht, ht'⟩

/-! ### The gate -/

/-- Behind the gate means: the gated bytes are the same. -/
theorem SameBehindGate.gatedOutByte {s s' : State} (h : SameBehindGate s s') (i : Nat) :
    s'.gatedOutByte i = s.gatedOutByte i := by
  obtain ⟨he, hb⟩ := h
  have hcond : (s'.outValid && decide (i < s'.outLen.toNat)) = (s.outValid && decide (i < s.outLen.toNat)) := by rw [he]
  unfold State.gatedOutByte
  rw [hcond]
  split
  · next hv =>
    simp only [Bool.and_eq_true, decide_eq_true_eq] at hv
    exact hb hv.1 i hv.2
  · rfl

/-- What is pending is no part of the comparison. -/
theorem SameBehindGate.withEvents {s s' : State} (h : SameBehindGate s s') (es : List Event) :
    SameBehindGate { s with events := es } { s' with events := es } :=
  ⟨congrArg (fun u : State => { u with events := es }) h.1, h.2⟩

theorem SameBehindGate.replyUnderReset {s s' : State} (h : SameBehindGate s s') :
    SameBehindGate s.replyUnderReset s'.replyUnderReset :=
  ⟨congrArg State.replyUnderReset h.1, h.2⟩

theorem SameBehindGate.exec {i : Instr} {s s' t : State} (h : SameBehindGate s s') (hx : exec i s = .next t) :
    ∃ t', exec i s' = .next t' ∧ SameBehindGate t t' := by
  obtain ⟨he, hb⟩ := h
  have hhid : s.withHidden s.build.key s'.outBuf = s' := he.symm
  obtain ⟨u, hu, hu'⟩ := exec_withHidden (m := s'.outBuf) i (s := s) rfl fun k => by
    rw [hhid]; exact SameBehindGate.gatedOutByte ⟨he, hb⟩ k
  obtain rfl : u = t := by rw [hx] at hu; cases hu; rfl
  rw [hhid, State.withHidden_outBuf _ (exec_frame hx).build] at hu'
  refine ⟨_, hu', rfl, fun hv k hk => ?_⟩
  obtain ⟨hsv, hlen⟩ := exec_outValid hx hv
  have hep : u.epoch = s'.epoch := by rw [he]; exact (exec_frame hx).epoch
  calc State.outByte { u with outBuf := s'.outBuf } k
    _ = s'.outByte k := State.outByte_congr (s := s') (t := { u with outBuf := s'.outBuf }) rfl hep k
    _ = s.outByte k := hb hsv k (hlen ▸ hk)
    _ = u.outByte k := (exec_outByte hx k).symm

/-- The payload does not depend on what OUT_BUF holds. -/
theorem State.payloadOf_withOutBuf (s : State) (m : Memory) :
    State.payloadOf { s with outBuf := m } = s.payloadOf := rfl

/-- Storing one payload in both, the gate shows no more than that payload. -/
theorem SameBehindGate.storePayload {s s' : State} (h : SameBehindGate s s') (pay : List Byte) :
    SameBehindGate (s.storePayload pay) (s'.storePayload pay) := by
  refine ⟨congrArg (fun u : State => { u.storePayload pay with outBuf := Memory.writeBytes s'.outBuf 0 pay }) h.1,
    fun _ k hk => ?_⟩
  rw [State.storePayload_outLen, BitVec.toNat_ofNat] at hk
  have hlt : k < pay.length := lt_of_lt_of_le hk (Nat.mod_le _ _)
  rw [State.outByte_storePayload _ _ hlt, State.outByte_storePayload _ _ hlt]

theorem SameBehindGate.complete {s s' : State} (h : SameBehindGate s s') : SameBehindGate s.complete s'.complete := by
  have hpay : s'.payloadOf = s.payloadOf := by rw [h.1, State.payloadOf_withOutBuf]
  unfold State.complete
  rw [hpay]
  exact h.storePayload _

theorem SameBehindGate.engineStep {s s' : State} (h : SameBehindGate s s') :
    SameBehindGate s.engineStep s'.engineStep := by
  have hcond : (s'.busy && !s'.resetHeld) = (s.busy && !s.resetHeld) := by rw [h.1]
  unfold State.engineStep
  rw [hcond]
  split
  · exact h.complete
  · exact h

/-- Reset leaves nothing of OUT_BUF to differ in. -/
theorem SameBehindGate.resetInput {s s' : State} (h : SameBehindGate s s') (a : Bool) :
    SameBehindGate (s.resetInput a) (s'.resetInput a) := by
  have hreset : s'.holdReset = s.holdReset := by rw [h.1]; rfl
  have hheld : s'.resetHeld = s.resetHeld := by rw [h.1]
  unfold State.resetInput
  rw [hreset, hheld]
  split
  · exact ⟨rfl, fun _ _ _ => rfl⟩
  · split
    · exact ⟨rfl, fun _ _ _ => rfl⟩
    · exact h

theorem SameBehindGate.hostStep {x : Transaction} {s s' t : State} (h : SameBehindGate s s')
    (hx : hostStep x s = .next t) : ∃ t', hostStep x s' = .next t' ∧ SameBehindGate t t' := by
  have hheld : s'.resetHeld = s.resetHeld := by rw [h.1]
  have hbuild : s'.build = s.build := by rw [h.1]
  rcases hostStep_cases hx with ⟨hr, rfl⟩ | ⟨hr, hx⟩
  · exact ⟨_, by simp [Machine.hostStep, hheld, hr], h.replyUnderReset⟩
  · obtain ⟨t', ht', hsame⟩ := h.exec hx
    exact ⟨t', by simpa [Machine.hostStep, hheld, hr, hbuild] using ht', hsame⟩

theorem SameBehindGate.accessStep {a : Access} {s s' t : State} (h : SameBehindGate s s')
    (hx : accessStep a s = .next t) : ∃ t', accessStep a s' = .next t' ∧ SameBehindGate t t' := by
  have hbuild : s'.build = s.build := by rw [h.1]
  unfold Machine.accessStep at hx ⊢
  rw [hbuild]
  split at hx
  · exact h.hostStep hx
  · cases hx; exact ⟨s', rfl, h⟩

/-- Two states that differ behind the gate step alike, whatever happens next. -/
theorem SameBehindGate.step {s s' t : State} (h : SameBehindGate s s') (hx : step s = .next t) :
    ∃ t', step s' = .next t' ∧ SameBehindGate t t' := by
  have hbuild : s'.build = s.build := by rw [h.1]
  have hevents : s'.events = s.events := by rw [h.1]
  unfold Machine.step at hx ⊢
  split at hx
  · next hw =>
    rw [if_pos (by rw [hbuild]; exact hw), hevents]
    split at hx
    · cases hx; exact ⟨_, rfl, h.engineStep⟩
    · exact (h.withEvents _).hostStep hx
    · exact (h.withEvents _).accessStep hx
    · cases hx; exact ⟨_, rfl, (h.withEvents _).engineStep⟩
    · cases hx; exact ⟨_, rfl, (h.withEvents _).resetInput _⟩
  · cases hx

/-- Settles O51: `SameBehindGate.step`; the answer and irq are no part of OUT_BUF. -/
theorem gateHidesStaleBytes : Obligations.GateHidesStaleBytes := by
  intro s s' t h hx
  obtain ⟨t', ht', hsame⟩ := h.step hx
  exact ⟨t', ht', hsame, by rw [hsame.1], by rw [hsame.1]; rfl⟩

end Sys2Proof.Machine

/-! ## Proofs: the block's invariant (10_state R29 to R31, R38; 41_commands R143, R149; 70_reset_and_hazards R270)

One lemma for each kind of update: what leaves the status, the operands and the buffers alone; what a command writes;
what a completion stores; what reset restores. A step is one of these. -/

namespace Sys2Proof.Machine

/-! ### Reset -/

/-- A block at its reset values, with nothing written to its buffers, keeps the invariant. -/
theorem Invariant.of_atReset {s : State} (hw : s.build.wf = true) (h : s.AtReset) (hpt : s.ptBuf = [])
    (hout : s.outBuf = []) : Invariant s := by
  obtain ⟨hbusy, hdone, herr, hov, hiv, _, hcode, _, hol, _, _, _, hgroup⟩ := id h
  exact
    { build := hw
      errDone := by simp [herr]
      errCode := by simp [herr, hcode]
      errIdle := fun _ => hbusy
      busyDone := fun _ => hdone
      outIdle := fun _ => hbusy
      outNone := fun _ => hol
      outLen := by simp [hov]
      outIv := by simp [hov]
      ivGroup := by simp [hiv]
      ivNone := fun _ => hgroup
      busyIv := by simp [hbusy]
      busyLen := by simp [hbusy]
      busyKey := by simp [hbusy]
      ptBuf := by rw [hpt]; rfl
      outBuf := by rw [hout]; rfl
      held := fun _ => h }

theorem State.holdReset_atReset (s : State) : s.holdReset.AtReset :=
  ⟨rfl, rfl, rfl, rfl, rfl, rfl, rfl, rfl, rfl, rfl, rfl, rfl, rfl⟩

theorem State.reset_atReset : State.reset.AtReset :=
  ⟨rfl, rfl, rfl, rfl, rfl, rfl, rfl, rfl, rfl, rfl, rfl, rfl, rfl⟩

/-- The default key has `KEY_LEN` bytes, whatever they are. -/
@[simp] theorem configKey_length : Config.key.length = 16 := by simp [Config.key, Config.keyLen]

/-- The default build meets R9. -/
theorem configBuild_wf : Config.build.wf = true := by simp [Build.wf, Config.build, Config.maxPt]

/-- CAPS of the default build. -/
theorem capsWord_configBuild : Build.capsWord Config.build = 0x04000010 := by
  simp [Build.capsWord, Config.build, Config.maxPt]

/-- Settles O44: the reset values of the default build, with empty buffers. -/
theorem invariantHoldsAtReset : Obligations.InvariantHoldsAtReset :=
  .of_atReset configBuild_wf State.reset_atReset rfl rfl

/-- Settles O57: the reset values one by one; CAPS needs the length of the free key, and the gate OUT_VALID = 0. -/
theorem resetLeavesTheSpecifiedValues : Obligations.ResetLeavesTheSpecifiedValues := by
  have hcaps : exec .rdCaps State.reset = .next (State.reset.readOkay 0x04000010) :=
    congrArg (fun w => Host.Outcome.next (State.reset.readOkay w)) capsWord_configBuild
  exact ⟨State.reset_atReset, rfl, rfl, hcaps, rfl, fun _ => ⟨rfl, rfl⟩, fun _ => rfl⟩

theorem Invariant.resetInput {s : State} (hs : Invariant s) (a : Bool) : Invariant (s.resetInput a) := by
  rcases s.resetInput_cases a with ⟨held, h⟩ | h
  · rw [h]
    exact .of_atReset hs.build s.holdReset_atReset rfl rfl
  · rwa [h]

/-! ### Updates that leave the status, the operands and the buffers alone -/

theorem Invariant.withEvents {s : State} (hs : Invariant s) (es : List Event) : Invariant { s with events := es } :=
  { hs with }

theorem Invariant.replyUnderReset {s : State} (hs : Invariant s) : Invariant s.replyUnderReset :=
  { hs with }

section
variable {s : State} (hs : Invariant s) (hr : s.resetHeld = false)
include hs hr

/-- An update that keeps the reset input released has nothing to show of a held reset. -/
theorem Invariant.config (v sr ie : Bool) (dg : BitVec 16) (r : Option Response) (n : Nat) :
    Invariant { s with viol := v, ivSrc := sr, doneIe := ie, ivDigits := dg, response := r, fresh := n } :=
  { hs with held := by simp [hr] }

theorem Invariant.ptLen (hb : s.busy = false) (v : BitVec 16) : Invariant { s with ptLen := v } :=
  { hs with busyLen := by simp [hb], held := by simp [hr] }

/-- A word inside PT_BUF lies there with all its four bytes, since MAX_PT is a multiple of 16. -/
theorem Invariant.ptBuf_writeWord {j : BitVec 10} (d : Word) (b : BitVec 4)
    (hj : wordInside s.build.maxPt j = true) :
    Invariant { s with ptBuf := Memory.writeWord d b (wordIndex j) s.ptBuf } := by
  have hw := hs.build
  simp only [Build.wf, Bool.and_eq_true, beq_iff_eq, decide_eq_true_eq] at hw
  simp only [wordInside, decide_eq_true_eq] at hj
  have hend : wordIndex j + 4 ≤ s.build.maxPt := by unfold wordIndex; omega
  exact { hs with ptBuf := Memory.wf_writeWord d b hs.ptBuf hend, held := by simp [hr] }

/-! ### What a command writes -/

theorem Invariant.acknowledge : Invariant s.acknowledge :=
  { hs with
    errDone := nofun
    errCode := by simp
    errIdle := nofun
    busyDone := fun _ => rfl
    held := by simp [hr] }

theorem Invariant.raiseCmdError (hb : s.busy = false) {code : ErrCode} (hc : code ≠ .none) :
    Invariant (s.raiseCmdError code) :=
  { hs with
    errDone := fun _ => rfl
    errCode := by simp [hc]
    errIdle := fun _ => hb
    busyDone := by simp [hb]
    held := by simp [hr] }

/-- An old payload is dropped together with its length. -/
theorem Invariant.dropPayload : Invariant { s with outValid := false, outLen := 0 } :=
  { hs with
    outIdle := nofun
    outNone := fun _ => rfl
    outLen := nofun
    outIv := nofun
    held := by simp [hr] }

theorem Invariant.dropGroup (hb : s.busy = false) : Invariant { s with ivValid := false, ivGroup := ⟨0, 0, 0, 0⟩ } :=
  { hs with
    ivGroup := nofun
    ivNone := fun _ => rfl
    busyIv := by simp [hb]
    held := by simp [hr] }

theorem Invariant.holdGroup {g : Quad} (hg : IsDigitGroup g) : Invariant { s with ivGroup := g, ivValid := true } :=
  { hs with
    ivGroup := fun _ => hg
    ivNone := nofun
    busyIv := fun _ => rfl
    held := by simp [hr] }

theorem Invariant.setDone (hb : s.busy = false) : Invariant { s with done := true } :=
  { hs with
    errDone := fun _ => rfl
    busyDone := by simp [hb]
    held := by simp [hr] }

/-- An operation begins on an acknowledged block without a payload, when its checks have passed and its group is made. -/
theorem Invariant.setBusy (hd : s.done = false) (ho : s.outValid = false) (hiv : s.ivValid = true)
    (hc : s.encryptCheck = none) : Invariant { s with busy := true } := by
  have herr : s.err = false := by
    cases he : s.err
    · rfl
    · rw [hs.errDone he] at hd; cases hd
  obtain ⟨hkey, hlen⟩ : Aes.keyLengthOk s.build.key.length = true ∧ s.ptLen.toNat ≤ s.build.maxPt := by
    rcases s.encryptCheck_cases with ⟨_, h⟩ | ⟨_, _, h⟩ | ⟨_, _, _, _, h⟩ | ⟨hkey, hlen, _, _⟩
    · rw [hc] at h; cases h
    · rw [hc] at h; cases h
    · rw [hc] at h; cases h
    · exact ⟨hkey, hlen⟩
  exact
    { hs with
      errIdle := by simp [herr]
      busyDone := fun _ => hd
      outIdle := by simp [ho]
      busyIv := fun _ => hiv
      busyLen := fun _ => hlen
      busyKey := fun _ => hkey
      held := by simp [hr] }

/-! ### The commands -/

theorem Invariant.encryptPrologue : Invariant s.encryptPrologue :=
  Invariant.dropPayload (hs.acknowledge hr) hr

theorem Invariant.issueEncrypt (hb : s.busy = false) : Invariant s.issueEncrypt := by
  have hpro := hs.encryptPrologue hr
  rcases s.issueEncrypt_cases with ⟨code, hne, _, h⟩ | ⟨hc, g, n, hg, h⟩
  · rw [h]
    exact hpro.raiseCmdError hr hb hne
  · rw [h]
    exact ((hpro.holdGroup hr hg).setBusy hr rfl rfl rfl hc).config hr _ _ _ _ _ n

theorem Invariant.generateIv (hb : s.busy = false) : Invariant s.generateIv := by
  have hack := hs.acknowledge hr
  rcases s.generateIv_cases with ⟨_, _, h⟩ | ⟨g, n, hg, h⟩
  · rw [h]
    exact hack.raiseCmdError hr hb (by decide)
  · rw [h]
    exact ((hack.holdGroup hr hg).setDone hr hb).config hr _ _ _ _ _ n

theorem Invariant.clearAll (hb : s.busy = false) : Invariant s.clearAll :=
  (((hs.acknowledge hr).dropPayload hr).dropGroup hr hb).config hr false _ _ _ _ _

theorem Invariant.illegalCommand (hb : s.busy = false) : Invariant s.illegalCommand :=
  (hs.acknowledge hr).raiseCmdError hr hb (by decide)

theorem Invariant.writeOkay : Invariant s.writeOkay := hs.config hr _ _ _ _ _ _

/-- With reset released every instruction keeps the invariant. -/
theorem Invariant.exec {i : Instr} {t : State} (h : exec i s = .next t) : Invariant t := by
  cases exec_inv h with
  | read _ ht | busError ht | violation _ ht | nop ht | ivSrc _ _ ht | ivDigits _ _ ht | doneIe _ _ ht =>
    rw [ht]; exact hs.config hr _ _ _ _ _ _
  | ptLen hb v ht => rw [ht]; exact (hs.ptLen hr hb v).writeOkay hr
  | ptBuf _ d b j _ hj ht => rw [ht]; exact (hs.ptBuf_writeWord hr d b hj).writeOkay hr
  | encrypt _ hb ht =>
    have hheld : s.issueEncrypt.resetHeld = false := by
      obtain ⟨_, _, _, _, _, _, _, he⟩ := s.issueEncrypt_writes
      rw [he]; exact hr
    rw [ht]; exact (hs.issueEncrypt hr hb).writeOkay hheld
  | genIv _ hb ht =>
    have hheld : s.generateIv.resetHeld = false := by
      obtain ⟨_, _, _, _, _, _, hg⟩ := s.generateIv_writes
      rw [hg]; exact hr
    rw [ht]; exact (hs.generateIv hr hb).writeOkay hheld
  | clear _ hb ht => rw [ht]; exact (hs.clearAll hr hb).writeOkay hr
  | illegal _ hb ht => rw [ht]; exact (hs.illegalCommand hr hb).writeOkay hr

end

/-! ### Completion -/

@[simp] theorem State.plaintext_length (s : State) : s.plaintext.length = s.ptLen.toNat := by simp [State.plaintext]

/-- The payload of a plaintext that fits PT_BUF fits OUT_BUF, in whole blocks of which the IV is one (R196). -/
theorem State.payloadOf_length_bounds {s : State} (hw : s.build.wf = true) (hl : s.ptLen.toNat ≤ s.build.maxPt) :
    s.payloadOf.length % 16 = 0 ∧ 32 ≤ s.payloadOf.length ∧ s.payloadOf.length ≤ s.build.outCap ∧
      s.build.outCap < 2 ^ 16 := by
  simp only [Build.wf, Bool.and_eq_true, beq_iff_eq, decide_eq_true_eq] at hw
  simp only [State.payloadOf, payload_length_eq, State.plaintext_length, padCount, Build.outCap]
  omega

/-- Storing whole blocks that fit OUT_BUF and start with an IV of the generator completes an operation. -/
theorem Invariant.storePayload {s : State} (hs : Invariant s) (hr : s.resetHeld = false) {pay : List Byte} {g : Quad}
    (hmod : pay.length % 16 = 0) (hlow : 32 ≤ pay.length) (hcap : pay.length ≤ s.build.outCap)
    (hbits : s.build.outCap < 2 ^ 16) (hg : IsDigitGroup g)
    (hiv : ∀ i, i < 16 → pay[i]? = (ivOfGroup g).bytes[i]?) : Invariant (s.storePayload pay) := by
  have hlen : (s.storePayload pay).outLen.toNat = pay.length := by
    rw [State.storePayload_outLen, BitVec.toNat_ofNat]
    exact Nat.mod_eq_of_lt (lt_of_le_of_lt hcap hbits)
  have hbytes : ∀ i, i < 16 → some ((s.storePayload pay).outByte i) = (ivOfGroup g).bytes[i]? := fun i hi => by
    have hlt : i < pay.length := by omega
    rw [State.outByte_storePayload s pay hlt, ← List.getElem?_eq_getElem hlt, hiv i hi]
  exact
    { hs with
      errDone := fun _ => rfl
      errIdle := fun _ => rfl
      busyDone := nofun
      outIdle := fun _ => rfl
      outNone := nofun
      outLen := fun _ => by rw [hlen]; exact ⟨hmod, hlow, hcap⟩
      outIv := fun _ => ⟨g, hg, hbytes⟩
      busyIv := nofun
      busyLen := nofun
      busyKey := nofun
      outBuf := Memory.wf_writeBytes _ _ _ _ hs.outBuf (by simpa using hcap)
      held := by simp [hr] }

/-- The operands of an operation in progress passed the checks, so its payload fits; its IV is the group it holds. -/
theorem Invariant.complete {s : State} (hs : Invariant s) (hr : s.resetHeld = false) (hb : s.busy = true) :
    Invariant s.complete := by
  obtain ⟨hmod, hlow, hcap, hbits⟩ := State.payloadOf_length_bounds hs.build (hs.busyLen hb)
  exact hs.storePayload hr hmod hlow hcap hbits (hs.ivGroup (hs.busyIv hb)) fun i hi => payload_getElem_iv _ _ _ i hi

theorem Invariant.engineStep {s : State} (hs : Invariant s) : Invariant s.engineStep := by
  rcases s.engineStep_cases with ⟨hb, hr, h⟩ | ⟨_, h⟩
  · rw [h]; exact hs.complete hr hb
  · rwa [h]

/-- Settles O43: every kind of step keeps the invariant. -/
theorem invariantIsKeptByEveryStep : Obligations.InvariantIsKeptByEveryStep := by
  intro s t hs h
  cases step_inv h with
  | engine rest _ ht => rw [ht]; exact (hs.withEvents rest).engineStep
  | reset a rest _ ht => rw [ht]; exact (hs.withEvents rest).resetInput a
  | elsewhere _ rest _ _ ht => rw [ht]; exact hs.withEvents rest
  | underReset _ _ rest _ _ _ ht => rw [ht]; exact (hs.withEvents rest).replyUnderReset
  | performed _ _ rest _ _ hr hx => exact (hs.withEvents rest).exec hr hx

end Sys2Proof.Machine

/-! ## Proofs: reads have no side effect (20_memory R68)

A read transaction decodes to a read row or a bus-error row, whatever its offset; each of these rows only answers. -/

namespace Sys2Proof.Machine

/-- The rows that only answer: the reads (40_bus_access §2) and the bus errors of R101 and R102. -/
def onlyAnswers : Instr → Bool
  | .rdId | .rdCtrl | .rdStatus | .rdPtLen | .rdOutLen | .rdIvCfg | .rdIvDigits | .rdIrqEn | .rdIvGroup | .rdCaps
  | .rdPtBuf _ | .rdOutBuf _ | .busErrMisalignedOdd _ | .busErrMisalignedHalf _ | .busErrUnmapped _ => true
  | _ => false

/-- Each of R82's branches for a read is such a row, so the offset does not matter. -/
theorem onlyAnswers_decodeRead (off : BitVec 14) : onlyAnswers (decodeRead off) = true := by
  simp only [decodeRead, apply_ite onlyAnswers]
  simp only [onlyAnswers, ite_self]

/-- The bus errors come first (R83), then the offset's own read. -/
theorem onlyAnswers_decodeBus_read (maxPt : Nat) (off : BitVec 14) :
    onlyAnswers (decodeBus maxPt (.read off)) = true := by
  unfold decodeBus
  split_ifs
  · rfl
  · rfl
  · rfl
  · exact onlyAnswers_decodeRead off

theorem execRdPtBuf_answers (j : BitVec 10) (s : State) :
    ∃ r, execRdPtBuf j s = .next { s with response := some r } := by
  unfold execRdPtBuf
  split
  · exact ⟨_, rfl⟩
  · exact ⟨_, rfl⟩

theorem execRdOutBuf_answers (j : BitVec 10) (s : State) :
    ∃ r, execRdOutBuf j s = .next { s with response := some r } := by
  unfold execRdOutBuf
  split
  · exact ⟨_, rfl⟩
  · exact ⟨_, rfl⟩

theorem exec_of_onlyAnswers {i : Instr} (h : onlyAnswers i = true) (s : State) :
    ∃ r, exec i s = .next { s with response := some r } := by
  cases i with
  | rdId | rdCtrl | rdStatus | rdPtLen | rdOutLen | rdIvCfg | rdIvDigits | rdIrqEn | rdIvGroup | rdCaps
  | busErrMisalignedOdd | busErrMisalignedHalf | busErrUnmapped => exact ⟨_, rfl⟩
  | rdPtBuf j => exact execRdPtBuf_answers j s
  | rdOutBuf j => exact execRdOutBuf_answers j s
  | _ => cases h

/-- Settles O8: what a read decodes to only answers. -/
theorem readsHaveNoSideEffect : Obligations.ReadsHaveNoSideEffect := fun s off =>
  exec_of_onlyAnswers (onlyAnswers_decodeBus_read s.build.maxPt off) s

end Sys2Proof.Machine

/-! ## Proofs: the two formats and their decoder (30_encoding, with 40_bus_access R100, R107 and R108)

A transaction passes R83's tests in order: misaligned, unmapped, then its own row. The lemmas say which row that is: a
register's by its offset, a buffer word's by its window and number. The two round trips, the rows' masks and the step
with a carried instruction are read off from them. -/

namespace Sys2Proof

/-! ### Words of the buffer windows -/

theorem wordNumber_windowOffset {window : Nat} (hw : window < 3) (j : BitVec 10) :
    wordNumber (windowOffset window j) = j := by
  apply BitVec.eq_of_toNat_eq
  rw [wordNumber, Laws.RowFits.windowOffset_toNat hw, BitVec.toNat_ofNat]
  omega

theorem windowOffset_wordNumber {window : Nat} {off : BitVec 14} (hw : inWindow window off = true)
    (h4 : off.toNat % 4 = 0) : windowOffset window (wordNumber off) = off := by
  have hdiv : off.toNat / 4096 = window := of_decide_eq_true hw
  apply BitVec.eq_of_toNat_eq
  simp only [windowOffset, wordNumber, BitVec.toNat_ofNat]
  omega

theorem inWindow_windowOffset {window : Nat} (hw : window < 3) (n : Nat) (j : BitVec 10) :
    inWindow n (windowOffset window j) = decide (window = n) := by
  have hdiv : (0x1000 * window + 4 * j.toNat) / 4096 = window := by omega
  rw [inWindow, Laws.RowFits.windowOffset_toNat hw, hdiv]

theorem windowOffset_mod_four {window : Nat} (hw : window < 3) (j : BitVec 10) :
    (windowOffset window j).toNat % 4 = 0 := by
  rw [Laws.RowFits.windowOffset_toNat hw]
  omega

/-- R100: the words of PT_BUF are implemented. -/
theorem implemented_ptWord {maxPt : Nat} {j : BitVec 10} (h : wordInside maxPt j = true) :
    implemented maxPt (windowOffset 1 j) = true := by
  have hj : 4 * j.toNat < maxPt := of_decide_eq_true h
  simp [implemented, Laws.RowFits.windowOffset_toNat (window := 1) (by decide), hj]

/-- R100: the words of OUT_BUF are implemented. -/
theorem implemented_outWord {maxPt : Nat} {j : BitVec 10} (h : wordInside (maxPt + 32) j = true) :
    implemented maxPt (windowOffset 2 j) = true := by
  have hj : 4 * j.toNat < maxPt + 32 := of_decide_eq_true h
  simp [implemented, Laws.RowFits.windowOffset_toNat (window := 2) (by decide), hj]

/-! ### The order of R83 -/

theorem aligned_iff (off : BitVec 14) : oddOffset off = false ∧ halfOffset off = false ↔ off.toNat % 4 = 0 := by
  simp only [oddOffset, halfOffset, decide_eq_false_iff_not]
  omega

theorem oddOffset_of_half {off : BitVec 14} (h : halfOffset off = true) : oddOffset off = false := by
  simp only [oddOffset, halfOffset, decide_eq_true_eq, decide_eq_false_iff_not] at *
  omega

theorem decodeBus_odd (maxPt : Nat) {t : Transaction} (h : oddOffset t.off = true) :
    decodeBus maxPt t = .busErrMisalignedOdd t := by
  simp [decodeBus, h]

theorem decodeBus_half (maxPt : Nat) {t : Transaction} (h : halfOffset t.off = true) :
    decodeBus maxPt t = .busErrMisalignedHalf t := by
  simp [decodeBus, oddOffset_of_half h, h]

theorem decodeBus_unmapped {maxPt : Nat} {t : Transaction} (h4 : t.off.toNat % 4 = 0)
    (hi : implemented maxPt t.off = false) : decodeBus maxPt t = .busErrUnmapped t := by
  obtain ⟨hodd, hhalf⟩ := (aligned_iff t.off).mpr h4
  simp [decodeBus, hodd, hhalf, hi]

theorem decodeBus_read {maxPt : Nat} {off : BitVec 14} (h4 : off.toNat % 4 = 0)
    (hi : implemented maxPt off = true) : decodeBus maxPt (.read off) = decodeRead off := by
  obtain ⟨hodd, hhalf⟩ := (aligned_iff off).mpr h4
  simp [decodeBus, Transaction.off, hodd, hhalf, hi]

theorem decodeBus_write {maxPt : Nat} {off : BitVec 14} (d : Word) (b : BitVec 4) (h4 : off.toNat % 4 = 0)
    (hi : implemented maxPt off = true) : decodeBus maxPt (.write off d b) = decodeWrite off d b := by
  obtain ⟨hodd, hhalf⟩ := (aligned_iff off).mpr h4
  simp [decodeBus, Transaction.off, hodd, hhalf, hi]

/-! ### Decoding what was encoded -/

/-- R100: every register is implemented, whatever MAX_PT is. -/
theorem decodeBus_writeRegister (maxPt : Nat) {off : BitVec 14} (d : Word) (b : BitVec 4) (h4 : off.toNat % 4 = 0)
    (hr : off.toNat ≤ 0x024) : decodeBus maxPt (.write off d b) = decodeWrite off d b :=
  decodeBus_write d b h4 (by simp [implemented, hr])

section
variable {window : Nat} (h1 : 1 ≤ window) (hw : window < 3) (j : BitVec 10)
include h1 hw

/-- No register lies in a buffer window (R64). -/
theorem windowOffset_ne_register {off : BitVec 14} (hr : off.toNat < 0x1000) : windowOffset window j ≠ off := by
  intro h
  have := congrArg BitVec.toNat h
  rw [Laws.RowFits.windowOffset_toNat hw] at this
  omega

theorem decodeRead_windowOffset :
    decodeRead (windowOffset window j) = if window = 1 then .rdPtBuf j else .rdOutBuf j := by
  unfold decodeRead
  iterate 10 rw [if_neg (windowOffset_ne_register h1 hw j (by decide))]
  obtain rfl | rfl : window = 1 ∨ window = 2 := by omega
  · simp [inWindow_windowOffset, wordNumber_windowOffset]
  · simp [inWindow_windowOffset, wordNumber_windowOffset]

theorem decodeWrite_windowOffset (d : Word) (b : BitVec 4) :
    decodeWrite (windowOffset window j) d b = if window = 1 then .wrPtBuf j d b else .wrOutBufRo j d b := by
  unfold decodeWrite
  iterate 10 rw [if_neg (windowOffset_ne_register h1 hw j (by decide))]
  obtain rfl | rfl : window = 1 ∨ window = 2 := by omega
  · simp [inWindow_windowOffset, wordNumber_windowOffset]
  · simp [inWindow_windowOffset, wordNumber_windowOffset]

variable {maxPt : Nat} (hi : implemented maxPt (windowOffset window j) = true)
include hi

theorem decodeBus_readWindow :
    decodeBus maxPt (.read (windowOffset window j)) = if window = 1 then .rdPtBuf j else .rdOutBuf j :=
  (decodeBus_read (windowOffset_mod_four hw j) hi).trans (decodeRead_windowOffset h1 hw j)

theorem decodeBus_writeWindow (d : Word) (b : BitVec 4) :
    decodeBus maxPt (.write (windowOffset window j) d b) = if window = 1 then .wrPtBuf j d b else .wrOutBufRo j d b :=
  (decodeBus_write d b (windowOffset_mod_four hw j) hi).trans (decodeWrite_windowOffset h1 hw j d b)

end

theorem decodeCommand_illegal {c : Word} (h : legalCommand c = false) : decodeCommand c = .illegal c := by
  have h4 : 4 ≤ c.toNat := not_lt.mp (of_decide_eq_false h)
  unfold decodeCommand
  iterate 4 rw [if_neg (by bv_omega)]

/-- Settles O52: a register's row by its offset, a buffer word's by its window, a bus error by R83's order, a command
word by its value. -/
theorem decodeInvertsEncode : Obligations.DecodeInvertsEncode := by
  intro maxPt i h
  cases i with
  | rdId | rdCtrl | rdStatus | rdPtLen | rdOutLen | rdIvCfg | rdIvDigits | rdIrqEn | rdIvGroup | rdCaps => rfl
  | wrIdRo d b | wrCtrl d b | wrStatusRo d b | wrPtLen d b | wrOutLenRo d b | wrIvCfg d b | wrIvDigits d b
  | wrIrqEn d b | wrIvGroupRo d b | wrCapsRo d b => exact decodeBus_writeRegister maxPt d b (by decide) (by decide)
  | rdPtBuf j => exact decodeBus_readWindow (by decide) (by decide) j (implemented_ptWord h)
  | wrPtBuf j d b => exact decodeBus_writeWindow (by decide) (by decide) j (implemented_ptWord h) d b
  | rdOutBuf j => exact decodeBus_readWindow (by decide) (by decide) j (implemented_outWord h)
  | wrOutBufRo j d b => exact decodeBus_writeWindow (by decide) (by decide) j (implemented_outWord h) d b
  | busErrMisalignedOdd t => exact decodeBus_odd maxPt h
  | busErrMisalignedHalf t => exact decodeBus_half maxPt h
  | busErrUnmapped t =>
    simp only [Instr.wf, Bool.and_eq_true, Bool.not_eq_true'] at h
    obtain ⟨haligned, hi⟩ := h
    exact decodeBus_unmapped ((aligned_iff t.off).mp haligned) hi
  | nop | encrypt | genIv | clear => rfl
  | illegal c => exact decodeCommand_illegal (by simpa [Instr.wf] using h)

/-! ### Encoding what was decoded -/

/-- An implemented offset past the registers lies in a buffer window, when OUT_BUF fits its window (R9, R64). -/
theorem inWindow_of_implemented {maxPt : Nat} {off : BitVec 14} (hm : maxPt ≤ 4064)
    (hi : implemented maxPt off = true) (hreg : ¬ off.toNat ≤ 0x024) (hpt : ¬ inWindow 1 off = true) :
    inWindow 2 off = true := by
  simp only [implemented, inWindow, Bool.or_eq_true, Bool.and_eq_true, decide_eq_true_eq] at *
  omega

theorem wordInside_of_ptWindow {maxPt : Nat} {off : BitVec 14} (hw : inWindow 1 off = true)
    (hi : implemented maxPt off = true) : wordInside maxPt (wordNumber off) = true := by
  simp only [implemented, inWindow, wordInside, wordNumber, BitVec.toNat_ofNat, Bool.or_eq_true, Bool.and_eq_true,
    decide_eq_true_eq] at *
  omega

theorem wordInside_of_outWindow {maxPt : Nat} {off : BitVec 14} (hm : maxPt ≤ 4064) (hw : inWindow 2 off = true)
    (hi : implemented maxPt off = true) : wordInside (maxPt + 32) (wordNumber off) = true := by
  simp only [implemented, inWindow, wordInside, wordNumber, BitVec.toNat_ofNat, Bool.or_eq_true, Bool.and_eq_true,
    decide_eq_true_eq] at *
  omega

/-- `i` keeps all bits of `e`, and is well formed in a build whose buffers fit their windows (R9). -/
structure Means (maxPt : Nat) (e : Encoding) (i : Instr) : Prop where
  encode_eq : encode i = e
  wf : maxPt ≤ 4064 → i.wf maxPt = true

section
variable {maxPt : Nat} {off : BitVec 14} (h4 : off.toNat % 4 = 0) (hi : implemented maxPt off = true)
include h4 hi

theorem means_decodeRead : Means maxPt (.bus (.read off)) (decodeRead off) := by
  unfold decodeRead
  iterate 10 refine iteInduction (fun h => ⟨h ▸ rfl, fun _ => rfl⟩) fun _ => ?_
  have hreg : ¬ off.toNat ≤ 0x024 := by bv_omega
  refine iteInduction (fun hpt => ⟨?_, fun _ => wordInside_of_ptWindow hpt hi⟩) fun hpt => ?_
  · rw [encode, windowOffset_wordNumber hpt h4]
  refine iteInduction (fun hout => ⟨?_, fun hm => wordInside_of_outWindow hm hout hi⟩) fun hout => ?_
  · rw [encode, windowOffset_wordNumber hout h4]
  · exact ⟨rfl, fun hm => absurd (inWindow_of_implemented hm hi hreg hpt) hout⟩

theorem means_decodeWrite (d : Word) (b : BitVec 4) :
    Means maxPt (.bus (.write off d b)) (decodeWrite off d b) := by
  unfold decodeWrite
  iterate 10 refine iteInduction (fun h => ⟨h ▸ rfl, fun _ => rfl⟩) fun _ => ?_
  have hreg : ¬ off.toNat ≤ 0x024 := by bv_omega
  refine iteInduction (fun hpt => ⟨?_, fun _ => wordInside_of_ptWindow hpt hi⟩) fun hpt => ?_
  · rw [encode, windowOffset_wordNumber hpt h4]
  refine iteInduction (fun hout => ⟨?_, fun hm => wordInside_of_outWindow hm hout hi⟩) fun hout => ?_
  · rw [encode, windowOffset_wordNumber hout h4]
  · exact ⟨rfl, fun hm => absurd (inWindow_of_implemented hm hi hreg hpt) hout⟩

end

theorem means_decodeBus (maxPt : Nat) (t : Transaction) : Means maxPt (.bus t) (decodeBus maxPt t) := by
  by_cases hodd : oddOffset t.off = true
  · exact (decodeBus_odd maxPt hodd).symm ▸ ⟨rfl, fun _ => hodd⟩
  by_cases hhalf : halfOffset t.off = true
  · exact (decodeBus_half maxPt hhalf).symm ▸ ⟨rfl, fun _ => hhalf⟩
  simp only [Bool.not_eq_true] at hodd hhalf
  have h4 : t.off.toNat % 4 = 0 := (aligned_iff t.off).mp ⟨hodd, hhalf⟩
  cases hi : implemented maxPt t.off with
  | false => exact (decodeBus_unmapped h4 hi).symm ▸ ⟨rfl, fun _ => by simp [Instr.wf, hodd, hhalf, hi]⟩
  | true =>
    cases t with
    | read off => exact (decodeBus_read h4 hi).symm ▸ means_decodeRead h4 hi
    | write off d b => exact (decodeBus_write d b h4 hi).symm ▸ means_decodeWrite h4 hi d b

theorem means_decodeCommand (maxPt : Nat) (c : Word) : Means maxPt (.command c) (decodeCommand c) := by
  unfold decodeCommand
  iterate 4 refine iteInduction (fun h => ⟨h ▸ rfl, fun _ => rfl⟩) fun _ => ?_
  refine ⟨rfl, fun _ => ?_⟩
  have h4 : ¬ c.toNat < 4 := by bv_omega
  simp [Instr.wf, legalCommand, h4]

theorem means_decode (maxPt : Nat) : ∀ e : Encoding, Means maxPt e (decode maxPt e)
  | .bus t => means_decodeBus maxPt t
  | .command c => means_decodeCommand maxPt c

open Laws in
/-- R91: the encoding of every well-formed instruction fits its row. -/
theorem encode_fits_row : ∀ i : Instr, RowFits.Statement i
  | .rdId => RowFits.rdId
  | .wrIdRo d b => RowFits.wrIdRo d b
  | .rdCtrl => RowFits.rdCtrl
  | .wrCtrl d b => RowFits.wrCtrl d b
  | .rdStatus => RowFits.rdStatus
  | .wrStatusRo d b => RowFits.wrStatusRo d b
  | .rdPtLen => RowFits.rdPtLen
  | .wrPtLen d b => RowFits.wrPtLen d b
  | .rdOutLen => RowFits.rdOutLen
  | .wrOutLenRo d b => RowFits.wrOutLenRo d b
  | .rdIvCfg => RowFits.rdIvCfg
  | .wrIvCfg d b => RowFits.wrIvCfg d b
  | .rdIvDigits => RowFits.rdIvDigits
  | .wrIvDigits d b => RowFits.wrIvDigits d b
  | .rdIrqEn => RowFits.rdIrqEn
  | .wrIrqEn d b => RowFits.wrIrqEn d b
  | .rdIvGroup => RowFits.rdIvGroup
  | .wrIvGroupRo d b => RowFits.wrIvGroupRo d b
  | .rdCaps => RowFits.rdCaps
  | .wrCapsRo d b => RowFits.wrCapsRo d b
  | .rdPtBuf j => RowFits.rdPtBuf j
  | .wrPtBuf j d b => RowFits.wrPtBuf j d b
  | .rdOutBuf j => RowFits.rdOutBuf j
  | .wrOutBufRo j d b => RowFits.wrOutBufRo j d b
  | .busErrMisalignedOdd t => RowFits.busErrMisalignedOdd t
  | .busErrMisalignedHalf t => RowFits.busErrMisalignedHalf t
  | .busErrUnmapped t => RowFits.busErrUnmapped t
  | .nop => RowFits.nop
  | .encrypt => RowFits.encrypt
  | .genIv => RowFits.genIv
  | .clear => RowFits.clear
  | .illegal c => RowFits.illegal c

/-- Settles O53: the decoder's branches keep the encoding, and what is well formed fits its row. -/
theorem encodeInvertsDecode : Obligations.EncodeInvertsDecode := by
  intro maxPt e
  obtain ⟨hencode, hwf⟩ := means_decode maxPt e
  refine ⟨hencode, hwf, fun hm => ?_⟩
  calc (decode maxPt e).row.fits e.tableBits
    _ = (decode maxPt e).row.fits (encode (decode maxPt e)).tableBits := by rw [hencode]
    _ = true := encode_fits_row _ maxPt (hwf hm)

/-- Settles O54: twelve closed facts about the decoder in the default build, each by evaluating it. -/
theorem someKeysDecodeAsTheTableSays : Obligations.SomeKeysDecodeAsTheTableSays := by
  unfold Obligations.SomeKeysDecodeAsTheTableSays
  decide

end Sys2Proof

namespace Sys2Proof.Machine

/-! ### The write that carries a command word -/

/-- A write of a command word to CTRL with all strobes is the command itself (R84, R107). -/
theorem exec_wrCtrl_full (c : Word) (s : State) : exec (.wrCtrl c 0xF) s = exec (decodeCommand c) s := by
  change execWrCtrl c 0xF s = _
  simp only [execWrCtrl, decodeCommand, apply_ite (exec · s), (fullStrobes_iff 0xF).mpr rfl]
  rfl

theorem exec_carrier (maxPt : Nat) (e : Encoding) (s : State) :
    exec (decodeBus maxPt e.carrier) s = exec (decode maxPt e) s := by
  cases e with
  | bus t => rfl
  | command c =>
    have hctrl : decodeBus maxPt (.write 0x004 c 0xF) = .wrCtrl c 0xF := decodeInvertsEncode maxPt (.wrCtrl c 0xF) rfl
    exact hctrl ▸ exec_wrCtrl_full c s

/-- Settles O56: the step performs the carrier, and the carrier is the instruction. -/
theorem stepRunsTheCarriedInstruction : Obligations.StepRunsTheCarriedInstruction := by
  intro s e rest hw hr he
  calc step s
    _ = hostStep e.carrier { s with events := rest } := step_of_host hw he
    _ = exec (decodeBus s.build.maxPt e.carrier) { s with events := rest } := by simp [hostStep, hr]
    _ = exec (decode s.build.maxPt e) { s with events := rest } := exec_carrier _ e _

/-! ### Register writes -/

/-- Settles O9: each of the three is a register write with all strobes, not locked. -/
theorem registerWritesStoreTheirField : Obligations.RegisterWritesStoreTheirField := by
  intro s d hb
  have hstore (effect : State → State) :
      Host.Outcome.next (φ := Fault) (ρ := Refusal) (s.writeRegister 0xF true effect) = .next (effect s).writeOkay :=
    congrArg _ (s.writeRegister_full true effect (by simp [hb]))
  exact ⟨hstore _, hstore _, hstore _⟩

end Sys2Proof.Machine

/-! ## Proofs: the bus accesses (40_bus_access)

The words a read can answer come first: which byte stands in which lane, which flag at which bit. Then what a write does
with all strobes, with some, and under the busy lock; then which transactions are bus errors and which are answered. -/

namespace Sys2Proof.Machine

/-! ### Words and their lanes (R12, R60) -/

theorem toNat_zext16 (v : BitVec 16) : (zext16 v).toNat = v.toNat :=
  BitVec.toNat_setWidth_of_le (by decide)

theorem toNat_zext1 (b : Bool) : (zext1 b).toNat = b.toNat :=
  (BitVec.toNat_setWidth_of_le (by decide)).trans (BitVec.toNat_ofBool b)

/-- A byte shifted up by `m` bytes lies in lane `m` and leaves the other lanes 0. -/
theorem lane_shiftLeft (b : Byte) {m k : Nat} (hm : m < 4) (hk : k < 4) :
    lane (b.setWidth 32 <<< (8 * m)) k = if m = k then b else 0 := by
  ext i hi
  rcases lt_trichotomy m k with h | rfl | h
  · have habove : 8 ≤ 8 * k + i - 8 * m := by omega
    simp [lane, h.ne, habove]
  · have hword : 8 * m + i < 32 := by omega
    simp [lane, hword, BitVec.getLsbD_eq_getElem hi]
  · have hbelow : 8 * k + i < 8 * m := by omega
    simp [lane, h.ne', hbelow]

/-- Byte `k` of a little-endian word is in lane `k`. -/
theorem lane_le32 (f : Nat → Byte) {k : Nat} (hk : k < 4) : lane (le32 (f 0) (f 1) (f 2) (f 3)) k = f k := by
  have hbyte (m : Nat) (hm : m < 4) := lane_shiftLeft (f m) hm hk
  calc lane (le32 (f 0) (f 1) (f 2) (f 3)) k
    _ = lane ((f 0).setWidth 32 <<< (8 * 0)) k ||| lane ((f 1).setWidth 32 <<< (8 * 1)) k |||
        lane ((f 2).setWidth 32 <<< (8 * 2)) k ||| lane ((f 3).setWidth 32 <<< (8 * 3)) k := by
      simp [le32, lane, BitVec.extractLsb'_or]
    _ = f k := by
      rw [hbyte 0 (by decide), hbyte 1 (by decide), hbyte 2 (by decide), hbyte 3 (by decide)]
      interval_cases k <;> simp

theorem eq_zero_of_lanes {v : Word} (h : ∀ k, k < 4 → lane v k = 0) : v = 0 := by
  ext i hi
  have hbit := congrArg (·.getLsbD (i % 8)) (h (i / 8) (by omega))
  simpa [lane, Nat.mod_lt, Nat.div_add_mod, BitVec.getLsbD_eq_getElem hi] using hbit

/-! ### The status word (R112) -/

theorem getLsbD_zext1_shiftLeft (b : Bool) {n : Nat} (hn : n < 32) (k : Nat) :
    (zext1 b <<< n).getLsbD k = (decide (k = n) && b) := by
  rcases lt_trichotomy k n with h | rfl | h
  · simp [zext1, h, h.ne]
  · simp [zext1, hn]
  · have hpast : k - n ≠ 0 := by omega
    simp [zext1, h.ne', hpast]

theorem getLsbD_statusWord (s : State) (k : Nat) : s.statusWord.getLsbD k =
    (decide (k = 0) && s.busy || decide (k = 1) && s.done || decide (k = 2) && s.err || decide (k = 3) && s.outValid ||
      decide (k = 4) && s.ivValid || decide (k = 5) && s.viol ||
      decide (8 ≤ k) && s.errCode.bits.getLsbD (k - 8)) := by
  have hbusy : (zext1 s.busy).getLsbD k = (decide (k = 0) && s.busy) := by
    simpa using getLsbD_zext1_shiftLeft s.busy (n := 0) (by decide) k
  have hcode : (s.errCode.bits.setWidth 32 <<< 8).getLsbD k =
      (decide (8 ≤ k) && s.errCode.bits.getLsbD (k - 8)) := by
    rw [BitVec.getLsbD_shiftLeft, BitVec.getLsbD_setWidth]
    rcases lt_or_ge k 8 with hlow | hlow
    · simp [hlow, not_le.mpr hlow]
    rcases lt_or_ge k 12 with hhigh | hhigh
    · have hword : k < 32 ∧ k - 8 < 32 := by omega
      simp [hlow, not_lt.mpr hlow, hword]
    · simp [BitVec.getLsbD_of_ge _ (k - 8) (by omega : 4 ≤ k - 8)]
  simp only [State.statusWord, BitVec.getLsbD_or, hbusy, hcode, getLsbD_zext1_shiftLeft, Nat.reduceLT]

theorem getLsbD_statusWord_reserved (s : State) {k : Nat} (hk : k = 6 ∨ k = 7 ∨ 12 ≤ k) :
    s.statusWord.getLsbD k = false := by
  have hcode : (decide (8 ≤ k) && s.errCode.bits.getLsbD (k - 8)) = false := by
    rcases hk with rfl | rfl | hk
    · rfl
    · rfl
    · simp [BitVec.getLsbD_of_ge _ (k - 8) (by omega : 4 ≤ k - 8)]
  have hflag (n : Nat) (hn : n < 6) : k ≠ n := by omega
  rw [getLsbD_statusWord, hcode]
  simp [hflag]

theorem extractLsb'_statusWord (s : State) : s.statusWord.extractLsb' 8 4 = s.errCode.bits := by
  ext i hi
  have hflag (n : Nat) (hn : n < 6) : 8 + i ≠ n := by omega
  rw [BitVec.getElem_extractLsb', getLsbD_statusWord]
  simp [hflag, BitVec.getLsbD_eq_getElem hi]

theorem ErrCode.bits_eq_zero_iff (c : ErrCode) : c.bits = 0 ↔ c = .none := by
  cases c <;> decide

/-! ### The capabilities word (R122) -/

/-- R9, one constraint each. -/
theorem buildWf_iff (b : Build) :
    b.wf = true ↔ b.maxPt % 16 = 0 ∧ 1008 ≤ b.maxPt ∧ b.maxPt ≤ 4064 ∧ b.key.length ≤ 255 := by
  simp [Build.wf, and_assoc]

/-- KEY_LEN stays below the bits of MAX_PT, so the two are added. -/
theorem capsWord_toNat {b : Build} (hw : b.wf = true) :
    (Build.capsWord b).toNat = b.key.length + 65536 * b.maxPt := by
  obtain ⟨_, _, hpt, hkey⟩ := (buildWf_iff b).mp hw
  have hor := Nat.two_pow_add_eq_or_of_lt (i := 16) (by omega : b.key.length < 2 ^ 16) b.maxPt
  have hkeyWord : b.key.length % 2 ^ 32 = b.key.length := by omega
  have hptWord : b.maxPt % 2 ^ 32 = b.maxPt := by omega
  have hptField : 2 ^ 16 * b.maxPt % 2 ^ 32 = 2 ^ 16 * b.maxPt := by omega
  calc (Build.capsWord b).toNat
    _ = b.key.length ||| 2 ^ 16 * b.maxPt := by
      rw [Build.capsWord, BitVec.toNat_or, BitVec.toNat_shiftLeft, BitVec.toNat_ofNat, BitVec.toNat_ofNat, hkeyWord,
        hptWord, Nat.shiftLeft_eq, Nat.mul_comm, hptField]
    _ = b.key.length + 65536 * b.maxPt := by rw [Nat.or_comm, ← hor, Nat.add_comm]

/-! ### Reads -/

/-- Settles O1: both words are constants of the model. -/
theorem idAndCtrlReadsAreConstant : Obligations.IdAndCtrlReadsAreConstant := fun _ => ⟨rfl, rfl⟩

/-- Settles O2: each word is its field in 32 bits. -/
theorem fieldReadsAreZeroExtended : Obligations.FieldReadsAreZeroExtended := fun s =>
  ⟨⟨_, rfl, toNat_zext16 s.ptLen⟩, ⟨_, rfl, toNat_zext16 s.outLen⟩, ⟨_, rfl, toNat_zext1 s.ivSrc⟩,
    ⟨_, rfl, toNat_zext16 s.ivDigits⟩, ⟨_, rfl, toNat_zext1 s.doneIe⟩⟩

/-- Settles O3: the bits of the status word, and the invariant for what R29 and R30 say of them. -/
theorem statusReadShowsEveryFlagAtItsBit : Obligations.StatusReadShowsEveryFlagAtItsBit := by
  intro s
  have hbusy : s.statusWord.getLsbD 0 = s.busy := by rw [getLsbD_statusWord]; simp
  have hdone : s.statusWord.getLsbD 1 = s.done := by rw [getLsbD_statusWord]; simp
  have herr : s.statusWord.getLsbD 2 = s.err := by rw [getLsbD_statusWord]; simp
  have hout : s.statusWord.getLsbD 3 = s.outValid := by rw [getLsbD_statusWord]; simp
  have hiv : s.statusWord.getLsbD 4 = s.ivValid := by rw [getLsbD_statusWord]; simp
  have hviol : s.statusWord.getLsbD 5 = s.viol := by rw [getLsbD_statusWord]; simp
  have hcode := extractLsb'_statusWord s
  refine ⟨s.statusWord, rfl, hbusy, hdone, herr, hout, hiv, hviol, ?_, ?_, ?_, ?_, ?_,
    fun k hk => getLsbD_statusWord_reserved s hk, fun hs => ?invariant⟩
  case invariant =>
    rw [hbusy, hdone, herr, hout, hcode, ErrCode.bits_eq_zero_iff]
    exact ⟨fun h => ⟨hs.errDone h, hs.errIdle h⟩, hs.errCode, hs.outIdle⟩
  all_goals exact fun h => by rw [hcode, h]; rfl

/-- Settles O4: the lanes of the little-endian word. -/
theorem ivGroupReadIsLittleEndian : Obligations.IvGroupReadIsLittleEndian := by
  intro s
  have hlane (k : Nat) (hk : k < 4) := lane_le32 (s.ivGroup.bytes.getD · 0) hk
  exact ⟨_, rfl, hlane 0 (by decide), hlane 1 (by decide), hlane 2 (by decide), hlane 3 (by decide)⟩

/-- Settles O5: R9 bounds both fields of the capabilities word. -/
theorem capsReadShowsKeyLengthAndCapacity : Obligations.CapsReadShowsKeyLengthAndCapacity := fun _ hw =>
  ⟨_, rfl, capsWord_toNat hw⟩

/-- Settles O6: the lanes of the little-endian word. -/
theorem ptBufReadIsTheLittleEndianWord : Obligations.PtBufReadIsTheLittleEndianWord := fun s j hj =>
  ⟨_, if_pos (decide_eq_true hj), fun _ hk => lane_le32 (fun k => s.ptByte (4 * j.toNat + k)) hk⟩

/-- Settles O7: the lanes of the little-endian word, through the gate, which BUSY closes (R30). -/
theorem outBufReadIsGated : Obligations.OutBufReadIsGated := by
  intro s j hj
  have hlane (k : Nat) (hk : k < 4) := lane_le32 (fun k => s.gatedOutByte (4 * j.toNat + k)) hk
  refine ⟨_, if_pos (decide_eq_true hj), fun k hk => (hlane k hk).trans ?gate,
    fun hb hs => eq_zero_of_lanes fun k hk => (hlane k hk).trans ?closed⟩
  case gate => simp [State.gatedOutByte]
  case closed =>
    have hout : s.outValid = false := Bool.eq_false_iff.mpr fun ho => by
      rw [hs.outIdle ho] at hb
      cases hb
    simp [State.gatedOutByte, hout]

/-! ### Strobes (R103, R110) -/

theorem fullStrobes_eq_false {b : BitVec 4} (hb : b ≠ 0xF) : fullStrobes b = false :=
  Bool.eq_false_iff.mpr (hb ∘ (fullStrobes_iff b).mp)

section
variable (s : State) {b : BitVec 4} (hb : b ≠ 0xF)
include hb

theorem State.writeRegister_partial (locked : Bool) (effect : State → State) :
    s.writeRegister b locked effect = s.busError := by
  simp [State.writeRegister, fullStrobes_eq_false hb]

theorem exec_wrCtrl_partial (d : Word) : exec (.wrCtrl d b) s = .next s.busError :=
  if_pos (by rw [fullStrobes_eq_false hb]; rfl)

end

/-- Settles O12: read-only places answer nothing else, and the strobes are tested before the busy lock. -/
theorem readOnlyAndPartialWritesAreBusErrors : Obligations.ReadOnlyAndPartialWritesAreBusErrors := by
  intro s d b j
  refine ⟨⟨rfl, rfl, rfl, rfl, rfl, rfl⟩, fun hb => ?_⟩
  have hreg (locked : Bool) (effect : State → State) :
      Host.Outcome.next (φ := Fault) (ρ := Refusal) (s.writeRegister b locked effect) = .next s.busError :=
    congrArg _ (s.writeRegister_partial hb locked effect)
  exact ⟨exec_wrCtrl_partial s hb d, hreg _ _, hreg _ _, hreg _ _, hreg _ _⟩

theorem exec_wrIrqEn_full (s : State) (d : Word) :
    exec (.wrIrqEn d 0xF) s = .next { s with doneIe := d.getLsbD 0, response := some ⟨.okay, none⟩ } :=
  congrArg Host.Outcome.next (s.writeRegister_full false (fun s => { s with doneIe := bit0 d }) rfl)

/-- Settles O10: the write is not a locked one, and irq is DONE and DONE_IE. -/
theorem irqEnWriteIsNeverLocked : Obligations.IrqEnWriteIsNeverLocked := fun s d =>
  ⟨_, exec_wrIrqEn_full s d, rfl, rfl, fun hdone hd => Bool.and_eq_true_iff.mpr ⟨hdone, hd⟩⟩

theorem Memory.writeWord_zero (d : Word) (w : Nat) (m : Memory) : Memory.writeWord d 0 w m = m := by
  simp [Memory.writeWord, Memory.writeLane]

/-- A write inside PT_BUF while BUSY = 0 is the word write, answered OKAY. -/
theorem exec_wrPtBuf_inside {s : State} {j : BitVec 10} (hb : s.busy = false) (hj : 4 * j.toNat < s.build.maxPt)
    (d : Word) (b : BitVec 4) :
    exec (.wrPtBuf j d b) s =
      .next { s with ptBuf := Memory.writeWord d b (4 * j.toNat) s.ptBuf, response := some ⟨.okay, none⟩ } :=
  (if_pos (decide_eq_true hj)).trans (if_neg (Bool.eq_false_iff.mp hb))

/-- Settles O11: `Memory.lookup_writeWord` byte by byte; a word past PT_LEN.LEN holds no byte of the plaintext. -/
theorem ptBufWriteChangesExactlyTheStrobedBytes : Obligations.PtBufWriteChangesExactlyTheStrobedBytes := by
  intro s j d b hb hj
  obtain ⟨t, ht⟩ : ∃ t : State,
    t = { s with ptBuf := Memory.writeWord d b (4 * j.toNat) s.ptBuf, response := some ⟨.okay, none⟩ } := ⟨_, rfl⟩
  have hbuf : t.ptBuf = Memory.writeWord d b (4 * j.toNat) s.ptBuf := by rw [ht]
  have hep : t.epoch = s.epoch := by rw [ht]
  have hlen : t.ptLen = s.ptLen := by rw [ht]
  have hbyte (i : Nat) := s.ptByte_writeWord t d b (4 * j.toNat) i hbuf hep
  have houtside (i : Nat) (hi : i < 4 * j.toNat ∨ 4 * j.toNat + 4 ≤ i) : t.ptByte i = s.ptByte i := by
    rw [hbyte, if_neg (by omega)]
  refine ⟨t, ht ▸ exec_wrPtBuf_inside hb hj d b, by rw [hbuf, ht], fun k hk => ?strobed, houtside,
    State.outByte_congr (by rw [ht]) hep, ?noStrobe, fun hpast => ?plaintext⟩
  case strobed => simp [hbyte, hk, lane]
  case noStrobe =>
    rintro rfl
    rw [hbuf, Memory.writeWord_zero]
  case plaintext =>
    unfold State.plaintext
    rw [hlen]
    exact List.map_congr_left fun i hi => houtside i (.inl (lt_of_lt_of_le (List.mem_range.mp hi) hpast))

/-! ### The command a write carries (R107) -/

/-- The word 0 is NOP; every other word is a command that BUSY can lock. -/
theorem exec_decodeCommand_cases (c : Word) (s : State) :
    (c = 0 ∧ exec (decodeCommand c) s = .next s.writeOkay) ∨
    (c ≠ 0 ∧ ∃ effect, exec (decodeCommand c) s = .next (s.command effect)) := by
  unfold decodeCommand
  by_cases h0 : c = 0
  · rw [if_pos h0]
    exact .inl ⟨h0, rfl⟩
  · rw [if_neg h0]
    refine .inr ⟨h0, ?_⟩
    split_ifs
    · exact ⟨_, rfl⟩
    · exact ⟨_, rfl⟩
    · exact ⟨_, rfl⟩
    · exact ⟨_, rfl⟩

/-- A command is answered OKAY, ignored or accepted. -/
theorem State.command_response (s : State) (effect : State → State) :
    (s.command effect).response = some ⟨.okay, none⟩ := by
  rcases s.command_cases effect with ⟨_, h⟩ | ⟨_, h⟩
  · rw [h, State.violation_response]
  · rw [h, State.writeOkay_response]

/-- Settles O16: the write is the decoded command, and a command is answered OKAY. -/
theorem ctrlWritePerformsItsCommand : Obligations.CtrlWritePerformsItsCommand := by
  refine ⟨⟨rfl, rfl, rfl, rfl, fun c hc => decodeCommand_illegal (decide_eq_false (by omega))⟩,
    fun s c => ⟨?performed, fun b hb => exec_wrCtrl_partial s hb c⟩⟩
  rw [exec_wrCtrl_full]
  rcases exec_decodeCommand_cases c s with ⟨_, h⟩ | ⟨_, effect, h⟩
  · exact ⟨_, h, h, rfl⟩
  · exact ⟨_, h, h, s.command_response effect⟩

/-! ### The busy lock (R104) -/

section
variable {s : State} (hb : s.busy = true)
include hb

theorem State.writeRegister_locked (effect : State → State) : s.writeRegister 0xF true effect = s.violation := by
  simp [State.writeRegister, fullStrobes, hb]

theorem exec_wrCtrl_locked {c : Word} (hc : c ≠ 0) : exec (.wrCtrl c 0xF) s = .next s.violation := by
  rw [exec_wrCtrl_full]
  rcases exec_decodeCommand_cases c s with ⟨h0, _⟩ | ⟨_, effect, h⟩
  · exact absurd h0 hc
  · rw [h, State.command, if_pos hb]

theorem exec_wrPtBuf_locked {j : BitVec 10} (hj : wordInside s.build.maxPt j = true) (d : Word) (b : BitVec 4) :
    exec (.wrPtBuf j d b) s = .next s.violation :=
  (if_pos hj).trans (if_pos hb)

end

/-- An aligned offset inside PT_BUF decodes to the write of a word inside PT_BUF. -/
theorem decodeBus_writePtBuf {maxPt : Nat} {off : BitVec 14} (d : Word) (b : BitVec 4) (h4 : off.toNat % 4 = 0)
    (hwin : inWindow 1 off = true) (hi : implemented maxPt off = true) :
    decodeBus maxPt (.write off d b) = .wrPtBuf (wordNumber off) d b := by
  have hdecode := decodeInvertsEncode maxPt (.wrPtBuf (wordNumber off) d b) (wordInside_of_ptWindow hwin hi)
  rwa [encode, windowOffset_wordNumber hwin h4] at hdecode

/-- Settles O14: each locked write decodes to its row, and the row is locked; a read only answers (O8). -/
theorem busyLockSetsViolAndNothingElse : Obligations.BusyLockSetsViolAndNothingElse := by
  intro s hb
  refine ⟨fun off d hoff => ?register, fun off d b h4 hlow hcap hend => ?ptBuf, ?nop, fun d => ?irqEn, fun off => ?read⟩
  case register =>
    have hlocked (effect : State → State) :
        Host.Outcome.next (φ := Fault) (ρ := Refusal) (s.writeRegister 0xF true effect) = .next s.violation :=
      congrArg _ (State.writeRegister_locked hb effect)
    rcases hoff with ⟨rfl, hd⟩ | rfl | rfl | rfl <;> rw [decodeBus_writeRegister _ _ _ (by decide) (by decide)]
    · exact exec_wrCtrl_locked hb hd
    · exact hlocked _
    · exact hlocked _
    · exact hlocked _
  case ptBuf =>
    have hwin : inWindow 1 off = true := decide_eq_true (by omega)
    have hi : implemented s.build.maxPt off = true := by simp [implemented, hlow, hcap]
    rw [decodeBus_writePtBuf d b h4 hwin hi]
    exact exec_wrPtBuf_locked hb (wordInside_of_ptWindow hwin hi) d b
  case nop =>
    rw [decodeBus_writeRegister _ _ _ (by decide) (by decide)]
    exact exec_wrCtrl_full 0 s
  case irqEn =>
    rw [decodeBus_writeRegister _ _ _ (by decide) (by decide)]
    exact exec_wrIrqEn_full s d
  case read =>
    obtain ⟨r, hr⟩ := readsHaveNoSideEffect s off
    exact ⟨_, hr, rfl⟩

/-! ### Bus errors (R101, R102) -/

/-- R100: the aligned offsets that are not implemented. -/
theorem implemented_eq_false_iff (maxPt : Nat) {off : BitVec 14} (h4 : off.toNat % 4 = 0) :
    implemented maxPt off = false ↔ 0x028 ≤ off.toNat ∧ (off.toNat < 0x1000 ∨ 0x1000 + maxPt ≤ off.toNat) ∧
      (off.toNat < 0x2000 ∨ 0x2000 + (maxPt + 32) ≤ off.toNat) := by
  simp only [implemented, Bool.or_eq_false_iff, Bool.and_eq_false_iff, decide_eq_false_iff_not]
  omega

theorem exec_decodeBus_misaligned (maxPt : Nat) {t : Transaction} (h : t.off.toNat % 4 ≠ 0) (s : State) :
    exec (decodeBus maxPt t) s = .next s.busError := by
  by_cases hodd : oddOffset t.off = true
  · rw [decodeBus_odd maxPt hodd]; rfl
  by_cases hhalf : halfOffset t.off = true
  · rw [decodeBus_half maxPt hhalf]; rfl
  · simp only [Bool.not_eq_true] at hodd hhalf
    exact absurd ((aligned_iff t.off).mp ⟨hodd, hhalf⟩) h

/-- A well-formed instruction that an aligned, implemented read encodes is a read row, and is answered OKAY. -/
theorem exec_read_okay (s : State) {off : BitVec 14} (h4 : off.toNat % 4 = 0)
    (hi : implemented s.build.maxPt off = true) {i : Instr} (he : encode i = .bus (.read off))
    (hwf : i.wf s.build.maxPt = true) : ∃ v, exec i s = .next (s.readOkay v) := by
  obtain ⟨hodd, hhalf⟩ := (aligned_iff off).mpr h4
  cases i with
  | rdId | rdCtrl | rdStatus | rdPtLen | rdOutLen | rdIvCfg | rdIvDigits | rdIrqEn | rdIvGroup | rdCaps =>
    exact ⟨_, rfl⟩
  | rdPtBuf j => exact ⟨_, if_pos hwf⟩
  | rdOutBuf j => exact ⟨_, if_pos hwf⟩
  | busErrMisalignedOdd t | busErrMisalignedHalf t | busErrUnmapped t =>
    cases he
    simp [Instr.wf, Transaction.off, hodd, hhalf, hi] at hwf
  | _ => cases he

/-- Settles O13: R83's order for the bus errors; a read that is none keeps its encoding and is well formed (O53). -/
theorem misalignedAndUnmappedAreBusErrors : Obligations.MisalignedAndUnmappedAreBusErrors := by
  intro s t
  refine ⟨fun h => exec_decodeBus_misaligned _ h s, fun h4 hreg hpt hout => ?unmapped, ?okay,
    fun _ => rfl, fun _ => rfl, fun _ _ _ _ => rfl⟩
  case unmapped =>
    rw [decodeBus_unmapped h4 ((implemented_eq_false_iff _ h4).mpr ⟨hreg, hpt, hout⟩)]
    rfl
  case okay =>
    rintro off rfl h4 hw hinside
    have hi : implemented s.build.maxPt off = true := by
      rw [← Bool.not_eq_false, implemented_eq_false_iff _ h4]
      omega
    obtain ⟨_, _, hmax, _⟩ := (buildWf_iff s.build).mp hw
    obtain ⟨he, hwf⟩ := means_decodeBus s.build.maxPt (.read off)
    exact exec_read_okay s h4 hi he (hwf hmax)

/-! ### Every transaction is answered (R100, R123) -/

theorem ExecCase.answered {i : Instr} {s t : State} (h : ExecCase i s t) : ∃ r, t.response = some r := by
  cases h with
  | read _ h | busError h | violation _ h | nop h | ptLen _ _ h | ivSrc _ _ h | ivDigits _ _ h | doneIe _ _ h
  | ptBuf _ _ _ _ _ _ h | encrypt _ _ h | genIv _ _ h | clear _ _ h | illegal _ _ h => rw [h]; exact ⟨_, rfl⟩

theorem Resp.okay_or_slverr : ∀ r : Resp, r = .okay ∨ r = .slverr
  | .okay => .inl rfl
  | .slverr => .inr rfl

/-- Settles O42: every case of `exec_cases` is answered, and none ends BUSY. -/
theorem everyTransactionIsAnswered : Obligations.EveryTransactionIsAnswered := by
  intro s x
  obtain ⟨t, ht, hcase⟩ := exec_cases (decodeBus s.build.maxPt x) s
  obtain ⟨r, hr⟩ := hcase.answered
  refine ⟨t, r, ht, hr, r.resp.okay_or_slverr, fun hb => ?_⟩
  obtain ⟨_, _, _, he⟩ := exec_of_busy ht hb
  rw [he]
  exact hb

/-- Settles O55: a transaction carries itself (O56). -/
theorem stepRunsTheDecodedTransaction : Obligations.StepRunsTheDecodedTransaction := fun s x =>
  stepRunsTheCarriedInstruction s (.bus x)

end Sys2Proof.Machine

/-! ## Proofs: the commands and the completion of an operation (41_commands, with 42_iv_generator)

The override digits and the checks of R144 are said once in the numbers of IV_DIGITS and the key's length; from them
each accepted command's next state is an equation. An operation in progress is followed step by step to its completion: a
step leaves its operands alone, or is the completion. -/

namespace Sys2Proof.Machine

/-! ### The digits of a group (R36, R172, R173) -/

theorem digit_toNat (d : BitVec 16) (k : Nat) : (digit d k).toNat = d.toNat / 16 ^ k % 16 := by
  simp [digit, Nat.shiftRight_eq_div_pow, pow_mul]

theorem digitsLegal_iff_forall (d : BitVec 16) :
    digitsLegal d = true ↔ ∀ k, k < 4 → d.toNat / 16 ^ k % 16 ≤ 9 := by
  simp only [digitsLegal_iff, digit_toNat]
  refine ⟨fun ⟨h0, h1, h2, h3⟩ k hk => ?_,
    fun h => ⟨h 0 (by decide), h 1 (by decide), h 2 (by decide), h 3 (by decide)⟩⟩
  interval_cases k
  · exact h0
  · exact h1
  · exact h2
  · exact h3

theorem digitsLegal_eq_false_iff (d : BitVec 16) :
    digitsLegal d = false ↔ ∃ k, k < 4 ∧ 9 < d.toNat / 16 ^ k % 16 := by
  rw [← Bool.not_eq_true, digitsLegal_iff_forall]
  push Not
  rfl

/-- The group `make_group()` makes where it makes one: the four override digits or four drawn ones, in ASCII (R173). -/
def State.nextGroup (s : State) : Quad :=
  if s.ivSrc then
    ⟨BitVec.ofNat 8 (0x30 + s.ivDigits.toNat % 16), BitVec.ofNat 8 (0x30 + s.ivDigits.toNat / 16 % 16),
      BitVec.ofNat 8 (0x30 + s.ivDigits.toNat / 256 % 16), BitVec.ofNat 8 (0x30 + s.ivDigits.toNat / 4096 % 16)⟩
  else drawnGroup s.fresh

/-- With legal override digits, or none asked for, `make_group()` makes its group, and uses up only what it draws. -/
theorem State.makeGroup_of_legal {s : State} (h : s.ivSrc = true → digitsLegal s.ivDigits = true) :
    s.makeGroup = (some s.nextGroup, { s with fresh := if s.ivSrc then s.fresh else s.fresh + 4 }) := by
  rcases s.makeGroup_cases with ⟨hs, hg⟩ | ⟨hs, _, hg⟩ | ⟨hs, hl, _⟩
  · rw [hg, State.nextGroup, if_neg (by simp [hs]), if_neg (by simp [hs])]
  · rw [hg, State.nextGroup, if_pos hs, if_pos hs]
    simp [groupOfDigits, asciiDigit, digit_toNat]
  · rw [h hs] at hl
    cases hl

theorem State.makeGroup_of_illegal {s : State} (hs : s.ivSrc = true) (hl : digitsLegal s.ivDigits = false) :
    s.makeGroup = (none, s) := by
  simp [State.makeGroup, overrideGroup, hs, hl]

/-! ### The checks of an ENCRYPT (R144) -/

theorem keyLengthOk_iff (n : Nat) : Aes.keyLengthOk n = true ↔ n = 16 ∨ n = 24 ∨ n = 32 := by
  simp [Aes.keyLengthOk, or_assoc]

theorem State.encryptCheck_eq_none_iff (s : State) :
    s.encryptCheck = none ↔ Aes.keyLengthOk s.build.key.length = true ∧ s.ptLen.toNat ≤ s.build.maxPt ∧
      (s.ivSrc = true → digitsLegal s.ivDigits = true) := by
  constructor
  · intro hc
    rcases s.encryptCheck_cases with ⟨_, h⟩ | ⟨_, _, h⟩ | ⟨_, _, _, _, h⟩ | ⟨hkey, hlen, hd, _⟩
    · rw [hc] at h; cases h
    · rw [hc] at h; cases h
    · rw [hc] at h; cases h
    · exact ⟨hkey, hlen, hd⟩
  · rintro ⟨hkey, hlen, hd⟩
    simpa [State.encryptCheck, hkey, Nat.not_lt.mpr hlen] using hd

theorem State.issueEncrypt_of_passed {s : State} (h : s.encryptCheck = none) :
    s.issueEncrypt = { s.encryptPrologue with
      busy := true, ivValid := true, ivGroup := s.nextGroup
      fresh := if s.ivSrc then s.fresh else s.fresh + 4 } := by
  obtain ⟨_, _, hd⟩ := s.encryptCheck_eq_none_iff.mp h
  have hcheck : s.encryptPrologue.encryptCheck = none := h
  have hgroup := State.makeGroup_of_legal (s := s.encryptPrologue) hd
  simp only [State.issueEncrypt, hcheck, State.beginEncrypt, hgroup]
  rfl

theorem State.issueEncrypt_of_failed {s : State} {code : ErrCode} (h : s.encryptCheck = some code) :
    s.issueEncrypt = s.encryptPrologue.raiseCmdError code := by
  have hcheck : s.encryptPrologue.encryptCheck = some code := h
  simp only [State.issueEncrypt, hcheck]

theorem State.generateIv_of_legal {s : State} (h : s.ivSrc = true → digitsLegal s.ivDigits = true) :
    s.generateIv = { s.acknowledge with
      done := true, ivValid := true, ivGroup := s.nextGroup
      fresh := if s.ivSrc then s.fresh else s.fresh + 4 } := by
  have hgroup := State.makeGroup_of_legal (s := s.acknowledge) h
  simp only [State.generateIv, hgroup]
  rfl

theorem State.generateIv_of_illegal {s : State} (hs : s.ivSrc = true) (hl : digitsLegal s.ivDigits = false) :
    s.generateIv = s.acknowledge.raiseCmdError .ivDigit := by
  have hgroup := State.makeGroup_of_illegal (s := s.acknowledge) hs hl
  simp only [State.generateIv, hgroup]

/-! ### The commands (R140, R142 to R151) -/

theorem State.command_busy {s : State} (hb : s.busy = true) (effect : State → State) :
    s.command effect = s.violation := if_pos hb

theorem State.command_idle {s : State} (hb : s.busy = false) (effect : State → State) :
    s.command effect = (effect s).writeOkay := if_neg (by simp [hb])

section
variable {s : State} (hb : s.busy = false)
include hb

theorem exec_encrypt_idle : exec .encrypt s = .next s.issueEncrypt.writeOkay := congrArg _ (State.command_idle hb _)

theorem exec_genIv_idle : exec .genIv s = .next s.generateIv.writeOkay := congrArg _ (State.command_idle hb _)

theorem exec_clear_idle : exec .clear s = .next s.clearAll.writeOkay := congrArg _ (State.command_idle hb _)

theorem exec_illegal_idle (c : Word) : exec (.illegal c) s = .next s.illegalCommand.writeOkay :=
  congrArg _ (State.command_idle hb _)

end

/-- Settles O15: NOP is outside the busy lock, and a write to CTRL without all strobes is a bus error. -/
theorem nopChangesNothing : Obligations.NopChangesNothing := fun s =>
  ⟨rfl, exec_wrCtrl_full 0 s, fun _ hb => exec_wrCtrl_partial s hb 0⟩

/-- Settles O17: each of the four is a command, which BUSY locks. -/
theorem commandsWhileBusyAreIgnored : Obligations.CommandsWhileBusyAreIgnored := by
  intro s c hb
  have hlocked (effect : State → State) :
      Host.Outcome.next (φ := Fault) (ρ := Refusal) (s.command effect) = .next s.violation :=
    congrArg _ (State.command_busy hb effect)
  exact ⟨hlocked _, hlocked _, hlocked _, fun _ => hlocked _⟩

/-- Settles O18: the checks pass, so the ENCRYPT holds its group and is BUSY. -/
theorem acceptedEncryptBeginsTheOperation : Obligations.AcceptedEncryptBeginsTheOperation := by
  intro s hb hkey hlen hdigits
  have hcheck : s.encryptCheck = none := s.encryptCheck_eq_none_iff.mpr
    ⟨(keyLengthOk_iff _).mpr hkey, hlen, fun hs => (digitsLegal_iff_forall _).mpr (hdigits hs)⟩
  rw [exec_encrypt_idle hb, State.issueEncrypt_of_passed hcheck]
  rfl

/-- Settles O19: each of the three cases makes the check that gives its code the first to fail. -/
theorem firstFailingCheckDecidesTheCode : Obligations.FirstFailingCheckDecidesTheCode := by
  intro s code hb hfail
  have hcheck : s.encryptCheck = some code := by
    simp only [← keyLengthOk_iff, ← digitsLegal_eq_false_iff] at hfail
    rcases hfail with ⟨hkey, rfl⟩ | ⟨hkey, hlen, rfl⟩ | ⟨hkey, hlen, hs, hd, rfl⟩
    · simp [State.encryptCheck, hkey]
    · simp [State.encryptCheck, hkey, hlen]
    · simp [State.encryptCheck, hkey, hlen, hs, hd]
  rw [exec_encrypt_idle hb, State.issueEncrypt_of_failed hcheck]
  exact ⟨_, rfl, rfl, fun _ => rfl⟩

/-- Settles O20: `make_group()` makes its group from legal digits or by drawing, and fails on an illegal one. -/
theorem genIvMakesAGroupOrFails : Obligations.GenIvMakesAGroupOrFails := by
  intro s hb
  rw [exec_genIv_idle hb]
  refine ⟨fun hs hd => ?override, fun hs => ?drawn, fun hs hd => ?illegal⟩
  case override =>
    rw [State.generateIv_of_legal fun _ => (digitsLegal_iff_forall _).mpr hd, State.nextGroup, if_pos hs, if_pos hs]
    rfl
  case drawn =>
    rw [State.generateIv_of_legal (by simp [hs]), State.nextGroup, if_neg (by simp [hs]), if_neg (by simp [hs])]
    rfl
  case illegal =>
    rw [State.generateIv_of_illegal hs ((digitsLegal_eq_false_iff _).mpr hd)]
    rfl

/-- Settles O21: CLEAR leaves no flag set, BUSY having been 0. -/
theorem clearClearsStatusAndOutputs : Obligations.ClearClearsStatusAndOutputs := by
  intro s
  refine ⟨fun hb => ⟨_, exec_clear_idle hb, rfl, ?_, rfl⟩, fun hb => congrArg _ (State.command_busy hb _)⟩
  simp [State.statusWord, hb, ErrCode.bits, zext1]

/-- Settles O22: a word from 4 up decodes to the illegal command, whose effect does not depend on the word. -/
theorem illegalCommandFails : Obligations.IllegalCommandFails := by
  intro s c hb hc
  have hdecode : decodeCommand c = .illegal c := decodeCommand_illegal (decide_eq_false (by omega))
  rw [exec_wrCtrl_full, hdecode]
  exact ⟨exec_illegal_idle hb c, exec_illegal_idle hb c⟩

/-- Settles O41: of all instructions only an accepted ENCRYPT or GEN_IV, which make digit groups, and CLEAR write
IV_GROUP. -/
theorem everyGroupMadeIsADigitGroup : Obligations.EveryGroupMadeIsADigitGroup := by
  intro i s t h hne
  cases exec_inv h with
  | encrypt hi _ ht =>
    rcases s.issueEncrypt_cases with ⟨_, _, _, he⟩ | ⟨_, g, n, hg, he⟩
    · exact absurd (by rw [ht, he]; rfl) hne
    · rw [ht, he]
      exact .inl ⟨hg, rfl, by tauto⟩
  | genIv hi _ ht =>
    rcases s.generateIv_cases with ⟨_, _, he⟩ | ⟨g, n, hg, he⟩
    · exact absurd (by rw [ht, he]; rfl) hne
    · rw [ht, he]
      exact .inl ⟨hg, rfl, by tauto⟩
  | clear hi _ ht => rw [ht]; exact .inr ⟨rfl, rfl, hi⟩
  | read _ ht | busError ht | violation _ ht | nop ht | ptLen _ _ ht | ivSrc _ _ ht | ivDigits _ _ ht
  | doneIe _ _ ht | ptBuf _ _ _ _ _ _ ht | illegal _ _ ht => exact absurd (by rw [ht]; rfl) hne

/-! ### What a completion stores (R146) -/

theorem State.payloadOf_length (s : State) : s.payloadOf.length = 16 + 16 * (s.ptLen.toNat / 16) + 16 := by
  simp only [State.payloadOf, payload_length_eq, State.plaintext_length, padCount]
  omega

/-- OUT_LEN holds the length of the payload of a plaintext that fits PT_BUF (R34). -/
theorem State.outLen_complete {s : State} (hw : s.build.wf = true) (hl : s.ptLen.toNat ≤ s.build.maxPt) :
    s.complete.outLen.toNat = s.payloadOf.length := by
  obtain ⟨_, _, hcap, hbits⟩ := State.payloadOf_length_bounds hw hl
  exact BitVec.toNat_ofNat _ _ |>.trans (Nat.mod_eq_of_lt (lt_of_le_of_lt hcap hbits))

/-- All that a completion writes. -/
theorem State.storePayload_frame (s : State) (pay : List Byte) :
    s.storePayload pay = { s with
      busy := false, done := true, outValid := true
      outLen := (s.storePayload pay).outLen, outBuf := (s.storePayload pay).outBuf } := rfl

/-- A completion leaves OUT_BUF past its payload alone. -/
theorem State.outByte_storePayload_of_le (s : State) (pay : List Byte) {i : Nat} (h : pay.length ≤ i) :
    (s.storePayload pay).outByte i = s.outByte i := by
  have hlook := Memory.lookup_writeBytes_outside pay s.outBuf 0 i (.inr (by omega))
  simp [State.outByte, hlook]

/-- Right after a completion the outcome is the payload, with the failure flags as they were. -/
theorem State.operationOutcome_complete {s : State} (hw : s.build.wf = true) (hl : s.ptLen.toNat ≤ s.build.maxPt) :
    s.complete.operationOutcome = ⟨!s.err, s.errCode, some s.payloadOf⟩ := by
  have hbytes : (List.range s.complete.outLen.toNat).map s.complete.outByte = s.payloadOf := by
    refine List.ext_getElem (by simp [State.outLen_complete hw hl]) fun i _ hi => ?_
    rw [List.getElem_map, List.getElem_range]
    exact State.outByte_storePayload s _ hi
  exact congrArg (fun pay => OperationOutcome.mk (!s.err) s.errCode (some pay)) hbytes

theorem step_of_engine {s : State} {rest : List Event} (hw : s.build.wf = true) (he : s.events = .engine :: rest) :
    step s = .next { s with events := rest }.engineStep := by
  simp [step, hw, he]

/-- Settles O24: the engine's step is the completion while BUSY, and nothing otherwise. -/
theorem completionStoresThePayload : Obligations.CompletionStoresThePayload := by
  intro s rest hw he
  rw [step_of_engine hw he]
  refine ⟨fun hb => ?idle, fun hb hr hl => ?busy⟩
  case idle => simp [State.engineStep, hb]
  case busy =>
    have hdone : { s with events := rest }.engineStep = { s with events := rest }.complete := by
      simp [State.engineStep, hb, hr]
    have hlen := State.outLen_complete (s := { s with events := rest }) hw hl
    rw [hdone]
    refine ⟨_, rfl, State.storePayload_frame _ _, hlen.trans (State.payloadOf_length _), fun i hi => ?inside,
      fun i hi => ?outside, fun _ => rfl⟩
    case inside =>
      rw [hlen] at hi
      exact congrArg some (State.outByte_storePayload _ _ hi) |>.trans (List.getElem?_eq_getElem hi).symm
    case outside =>
      rw [hlen] at hi
      exact State.outByte_storePayload_of_le _ _ hi

/-! ### An operation in progress (R145, R147) -/

/-- `t` holds the operation in progress in `s`: it has other values at most of what is pending, the answer, VIOL, DONE_IE
and the place of the next free value. -/
def SameOperation (s t : State) : Prop :=
  ∃ es r v d n, t = { s with events := es, response := r, viol := v, doneIe := d, fresh := n }

theorem SameOperation.withEvents (s : State) (es : List Event) : SameOperation s { s with events := es } :=
  ⟨es, s.response, s.viol, s.doneIe, s.fresh, rfl⟩

theorem SameOperation.trans {s t u : State} (hst : SameOperation s t) (htu : SameOperation t u) : SameOperation s u := by
  obtain ⟨_, _, _, _, _, rfl⟩ := hst
  obtain ⟨es, r, v, d, n, rfl⟩ := htu
  exact ⟨es, r, v, d, n, rfl⟩

/-- A step from BUSY that is no change of the reset input leaves the operation alone or completes it; with reset released
the first takes an event from the list. -/
theorem step_of_busy {s t : State} (h : step s = .next t) (hb : s.busy = true)
    (hreset : ∀ a rest, s.events ≠ .reset a :: rest) :
    (SameOperation s t ∧ (s.resetHeld = false → ∃ e, s.events = e :: t.events)) ∨
    ∃ u, SameOperation s u ∧ t = u.complete := by
  cases step_inv h with
  | engine rest he ht =>
    rcases State.engineStep_cases { s with events := rest } with ⟨_, _, hs⟩ | ⟨hn, hs⟩
    · exact .inr ⟨_, .withEvents s rest, by rw [ht, hs]⟩
    · rw [ht, hs]
      exact .inl ⟨.withEvents s rest, fun hr => by simp [hb, hr] at hn⟩
  | reset a rest he _ => exact absurd he (hreset a rest)
  | elsewhere a rest he _ ht => rw [ht]; exact .inl ⟨.withEvents s rest, fun _ => ⟨_, he⟩⟩
  | underReset e x rest he _ _ ht => rw [ht]; exact .inl ⟨⟨rest, _, s.viol, s.doneIe, _, rfl⟩, fun _ => ⟨_, he⟩⟩
  | performed e x rest he _ _ hx =>
    obtain ⟨r, v, d, rfl⟩ := exec_of_busy hx hb
    exact .inl ⟨⟨rest, r, v, d, s.fresh, rfl⟩, fun _ => ⟨_, he⟩⟩

/-- Settles O27: a step from BUSY leaves the operation alone or completes it, and neither writes an operand. -/
theorem operandsAreStableWhileBusy : Obligations.OperandsAreStableWhileBusy := by
  intro s t h hb hreset
  rcases step_of_busy h hb hreset with ⟨⟨_, _, _, _, _, rfl⟩, _⟩ | ⟨_, ⟨_, _, _, _, _, rfl⟩, rfl⟩
  · exact ⟨rfl, fun _ => rfl, rfl, rfl, rfl, rfl, rfl⟩
  · exact ⟨rfl, fun _ => rfl, rfl, rfl, rfl, rfl, rfl⟩

theorem hostStep_total (x : Transaction) (s : State) : ∃ t, hostStep x s = .next t := by
  unfold hostStep
  split
  · exact ⟨_, rfl⟩
  · obtain ⟨t, ht, _⟩ := exec_cases (decodeBus s.build.maxPt x) s
    exact ⟨t, ht⟩

/-- A build of R9 is never stopped. -/
theorem step_total {s : State} (hw : s.build.wf = true) : ∃ t, step s = .next t := by
  unfold step accessStep
  rw [if_pos hw]
  split
  · exact ⟨_, rfl⟩
  · exact hostStep_total _ _
  · split
    · exact hostStep_total _ _
    · exact ⟨_, rfl⟩
  · exact ⟨_, rfl⟩
  · exact ⟨_, rfl⟩

/-- With no reset pending, an ENCRYPT in progress is complete within the events pending and one more step, by the
completion of a state that holds the same operation. -/
theorem encrypt_completes {s : State} (hw : s.build.wf = true) (hb : s.busy = true) (hr : s.resetHeld = false)
    (hreset : ∀ e ∈ s.events, ∀ a, e ≠ .reset a) :
    ∃ k u, 1 ≤ k ∧ k ≤ s.events.length + 1 ∧ SameOperation s u ∧ CompletesAt 1 s k u.complete := by
  have hwait : s.operationComplete 1 = false := by simp [State.operationComplete, hb]
  have hnext := State.resetNext_eq_false hreset
  obtain ⟨t, ht⟩ := step_total hw
  rcases step_of_busy ht hb fun a rest he => hreset (.reset a) (by simp [he]) a rfl with ⟨hst, he⟩ | ⟨u, hsu, rfl⟩
  · obtain ⟨e, he⟩ := he hr
    have hrest : ∀ e ∈ t.events, ∀ a, e ≠ .reset a := fun e' he' => hreset e' (by rw [he]; exact .tail _ he')
    obtain ⟨hwt, hbt, hrt⟩ : t.build.wf = true ∧ t.busy = true ∧ t.resetHeld = false := by
      obtain ⟨_, _, _, _, _, rfl⟩ := hst
      exact ⟨hw, hb, hr⟩
    obtain ⟨k, u, _, hk, htu, hdone⟩ := encrypt_completes hwt hbt hrt hrest
    have hlen : s.events.length = t.events.length + 1 := by rw [he, List.length_cons]
    exact ⟨k + 1, u, by omega, by omega, hst.trans htu, completesAt_succ hwait hnext ht hdone⟩
  · exact ⟨1, u, le_rfl, by omega, hsu, completesAt_succ hwait hnext ht (completesAt_zero rfl)⟩
termination_by s.events.length
decreasing_by simp [he]

/-- Settles O25: the completion of `encrypt_completes` stores the payload of the operands at the start. -/
theorem busyAlwaysEnds : Obligations.BusyAlwaysEnds := by
  intro s hw hb hr hreset
  obtain ⟨k, u, _, hk, ⟨_, _, _, _, _, rfl⟩, hrun, _, _⟩ := encrypt_completes hw hb hr hreset
  exact ⟨k, _, hk, hrun, rfl, rfl, rfl, rfl⟩

/-! ### When an operation is complete (R152) -/

/-- GEN_IV ends right away, with DONE = 1, and with a cause exactly when it fails. -/
theorem State.generateIv_outcome {s : State} (hb : s.busy = false) :
    s.generateIv.busy = false ∧ s.generateIv.done = true ∧
      (s.generateIv.err = false ↔ s.generateIv.errCode = .none) := by
  rcases s.generateIv_cases with ⟨_, _, h⟩ | ⟨_, _, _, h⟩
  · simp [h, hb]
  · simp [h, hb]

/-- A command other than ENCRYPT is complete right after its write, and its cause says whether it failed. -/
theorem completesAt_zero_of_ne_encrypt {s : State} {c : Word} (hb : s.busy = false) (hc : c ≠ 1) :
    ∃ t, exec (.wrCtrl c 0xF) s = .next t ∧ CompletesAt c t 0 t ∧
      (c ≠ 0 → (t.operationOutcome.success = true ↔ t.operationOutcome.cause = .none)) := by
  rcases eq_or_ne c 0 with rfl | h0
  · exact ⟨_, exec_wrCtrl_full 0 s, completesAt_zero rfl, fun h => absurd rfl h⟩
  rcases eq_or_ne c 2 with rfl | h2
  · obtain ⟨hbusy, hdone, hcause⟩ := State.generateIv_outcome hb
    refine ⟨_, (exec_wrCtrl_full 2 s).trans (exec_genIv_idle hb), completesAt_zero ?_, fun _ => ?_⟩
    · simp [State.operationComplete, hbusy, hdone]
    · simpa [State.operationOutcome] using hcause
  rcases eq_or_ne c 3 with rfl | h3
  · refine ⟨_, (exec_wrCtrl_full 3 s).trans (exec_clear_idle hb), completesAt_zero rfl, fun _ => ?_⟩
    simp [State.operationOutcome]
  · have hfail := (illegalCommandFails s c hb (illegalWord h0 hc h2 h3)).2
    refine ⟨_, hfail, completesAt_zero ?_, fun _ => ?_⟩
    · simp [State.operationComplete, hb]
    · simp [State.operationOutcome]

/-- No state is the completion of an operation that a reset meets before it is complete (R272). -/
theorem not_completesAt_of_resetNext {c : Word} {w u : State} {j : Nat} (hu : core.run j w = .next u)
    (hreset : u.resetNext = true) (hwait : ∀ i, i ≤ j → ∀ v, core.run i w = .next v → v.operationComplete c = false)
    (k : Nat) (t : State) : ¬ CompletesAt c w k t := by
  rintro ⟨hrun, hdone, hfirst⟩
  rcases le_or_gt k j with hk | hk
  · rw [hwait k hk t hrun] at hdone
    cases hdone
  · rw [(hfirst j hk u hu).2] at hreset
    cases hreset

/-- A failed ENCRYPT is complete right after its write, with its cause and no payload; an accepted one by its completion,
with the payload of its operands. -/
theorem encrypt_completes_or_fails {s : State} (hb : s.busy = false) : ∃ t, exec (.wrCtrl 1 0xF) s = .next t ∧
    (t.err = true → CompletesAt 1 t 0 t ∧ t.operationOutcome = ⟨false, t.errCode, none⟩ ∧ t.errCode ≠ .none) ∧
    (t.err = false → t.operationComplete 1 = false ∧
      (s.build.wf = true → s.resetHeld = false → (∀ e ∈ s.events, ∀ a, e ≠ .reset a) →
        ∃ k u, 1 ≤ k ∧ k ≤ s.events.length + 1 ∧ CompletesAt 1 t k u ∧
          u.operationOutcome = ⟨true, .none, some t.payloadOf⟩)) := by
  refine ⟨_, (exec_wrCtrl_full 1 s).trans (exec_encrypt_idle hb), ?_⟩
  rcases s.issueEncrypt_cases with ⟨code, hcode, _, h⟩ | ⟨hcheck, g, n, _, h⟩
  · rw [h]
    refine ⟨fun _ => ⟨completesAt_zero ?_, rfl, hcode⟩, nofun⟩
    simp [State.operationComplete, hb]
  · rw [h]
    refine ⟨nofun, fun _ => ⟨rfl, fun hw hr hreset => ?_⟩⟩
    obtain ⟨_, hlen, _⟩ := s.encryptCheck_eq_none_iff.mp hcheck
    obtain ⟨k, u, hpos, hk, ⟨_, _, _, _, _, rfl⟩, hdone⟩ := encrypt_completes (s := State.writeOkay
      { s.encryptPrologue with ivGroup := g, ivValid := true, busy := true, fresh := n }) hw rfl hr hreset
    exact ⟨k, _, hpos, hk, hdone, State.operationOutcome_complete hw hlen⟩

/-- Settles O60: NOP at any time, the other commands while BUSY = 0, and the operation a reset ends. -/
theorem operationsCompleteAsDefined : Obligations.OperationsCompleteAsDefined :=
  ⟨fun s => ⟨_, exec_wrCtrl_full 0 s, completesAt_zero rfl⟩,
    fun _ _ hb hc => completesAt_zero_of_ne_encrypt hb hc,
    fun _ hb => encrypt_completes_or_fails hb,
    fun _ _ u _ hu hreset hwait k t => not_completesAt_of_resetNext hu (u.resetNext_iff.mpr hreset) hwait k t⟩

end Sys2Proof.Machine

/-! ## Proofs: the IV generator (42_iv_generator)

An instruction uses up digits only where `make_group()` draws them, and then IV_GROUP shows all four. The IVs of digit
groups are the images of four digits under an injective map. -/

namespace Sys2Proof.Machine

/-! ### Drawing the digits of a group (R171, R172, R173) -/

theorem asciiDigit_toNat {d : Nat} (hd : d ≤ 9) : (asciiDigit d).toNat = 0x30 + d :=
  BitVec.toNat_ofNat _ _ |>.trans (Nat.mod_eq_of_lt (by omega))

theorem asciiDigit_drawn_toNat (n : Nat) :
    (asciiDigit (Config.drawnDigit n).val).toNat = 0x30 + (Config.drawnDigit n).val :=
  asciiDigit_toNat (Nat.le_of_lt_succ (Config.drawnDigit n).isLt)

/-- From `s` to `t` no digit is drawn, or exactly the four that IV_GROUP then shows, the override being off. -/
def DrawsAtMostAGroup (s t : State) : Prop :=
  t.fresh = s.fresh ∨ (t.fresh = s.fresh + 4 ∧ s.ivSrc = false ∧ t.ivGroup = drawnGroup s.fresh)

/-- A command that holds the group `make_group()` makes draws that group, or none where the override gives it. -/
theorem DrawsAtMostAGroup.of_nextGroup {s t : State} (hfresh : t.fresh = if s.ivSrc then s.fresh else s.fresh + 4)
    (hgroup : t.ivGroup = s.nextGroup) : DrawsAtMostAGroup s t := by
  unfold State.nextGroup at hgroup
  cases hs : s.ivSrc with
  | true => exact .inl (hfresh.trans (if_pos hs))
  | false => exact .inr ⟨hfresh.trans (if_neg (by simp [hs])), hs, hgroup.trans (if_neg (by simp [hs]))⟩

theorem State.issueEncrypt_draws (s : State) : DrawsAtMostAGroup s s.issueEncrypt := by
  cases hcheck : s.encryptCheck with
  | some code => rw [State.issueEncrypt_of_failed hcheck]; exact .inl rfl
  | none => rw [State.issueEncrypt_of_passed hcheck]; exact .of_nextGroup rfl rfl

theorem State.generateIv_draws (s : State) : DrawsAtMostAGroup s s.generateIv := by
  by_cases hlegal : s.ivSrc = true → digitsLegal s.ivDigits = true
  · rw [State.generateIv_of_legal hlegal]
    exact .of_nextGroup rfl rfl
  · obtain ⟨hs, hl⟩ := Classical.not_imp.mp hlegal
    rw [State.generateIv_of_illegal hs (Bool.eq_false_of_not_eq_true hl)]
    exact .inl rfl

/-- Only an accepted ENCRYPT or GEN_IV moves on in the digit stream. -/
theorem ExecCase.draws {i : Instr} {s t : State} (h : ExecCase i s t) :
    t.fresh = s.fresh ∨ (DrawsAtMostAGroup s t ∧ s.busy = false ∧
      (i = .encrypt ∨ i = .genIv ∨ i = .wrCtrl 1 0xF ∨ i = .wrCtrl 2 0xF)) := by
  cases h with
  | encrypt hi hb ht => rw [ht]; exact .inr ⟨s.issueEncrypt_draws, hb, by tauto⟩
  | genIv hi hb ht => rw [ht]; exact .inr ⟨s.generateIv_draws, hb, by tauto⟩
  | read _ ht | busError ht | violation _ ht | nop ht | ptLen _ _ ht | ivSrc _ _ ht | ivDigits _ _ ht
  | doneIe _ _ ht | ptBuf _ _ _ _ _ _ ht | clear _ _ ht | illegal _ _ ht => rw [ht]; exact .inl rfl

/-- Settles O23: what draws is an accepted ENCRYPT or GEN_IV, and a drawn digit fits its ASCII byte. -/
theorem digitsAreDrawnOnlyToMakeAGroup : Obligations.DigitsAreDrawnOnlyToMakeAGroup := by
  intro i s t h
  rcases (exec_inv h).draws with hsame | ⟨hsame | ⟨hfresh, hsrc, hgroup⟩, hb, hi⟩
  · exact .inl hsame
  · exact .inl hsame
  · rw [hgroup]
    exact .inr ⟨hfresh, hb, hsrc, hi, asciiDigit_drawn_toNat _, asciiDigit_drawn_toNat _, asciiDigit_drawn_toNat _,
      asciiDigit_drawn_toNat _⟩

/-! ### The IV space (R173, R175) -/

theorem ivOfGroup_bytes (g : Quad) : (ivOfGroup g).bytes = g.bytes ++ g.bytes ++ g.bytes ++ g.bytes := rfl

theorem ivOfGroup_bytes_periodic (g : Quad) {i : Nat} (hi : i < 16) :
    (ivOfGroup g).bytes[i]? = (ivOfGroup g).bytes[i % 4]? := by
  interval_cases i <;> rfl

theorem IsDigitGroup.mem_bytes {g : Quad} (hg : IsDigitGroup g) {b : Byte} (hb : b ∈ g.bytes) :
    ∃ d, d ≤ 9 ∧ b = asciiDigit d := by
  obtain ⟨d0, d1, d2, d3, h0, h1, h2, h3, rfl⟩ := hg
  simp only [Quad.bytes, groupOfDigits, List.mem_cons, List.not_mem_nil, or_false] at hb
  rcases hb with hb | hb | hb | hb
  · exact ⟨d0, h0, hb⟩
  · exact ⟨d1, h1, hb⟩
  · exact ⟨d2, h2, hb⟩
  · exact ⟨d3, h3, hb⟩

/-- The IV of four digits. -/
def ivOfDigits (d : Fin 10 × Fin 10 × Fin 10 × Fin 10) : Block :=
  ivOfGroup (groupOfDigits d.1 d.2.1 d.2.2.1 d.2.2.2)

theorem asciiDigit_fin_injective : Function.Injective fun d : Fin 10 => asciiDigit d := by
  intro d e h
  have htoNat : 0x30 + d.val = 0x30 + e.val := by
    rw [← asciiDigit_toNat (by omega), ← asciiDigit_toNat (by omega)]
    exact congrArg BitVec.toNat h
  omega

theorem ivOfDigits_injective : Function.Injective ivOfDigits := by
  rintro ⟨d0, d1, d2, d3⟩ ⟨e0, e1, e2, e3⟩ h
  obtain ⟨h0, h1, h2, h3⟩ := Quad.mk.inj (congrArg Block.c0 h)
  exact Prod.ext (asciiDigit_fin_injective h0) (Prod.ext (asciiDigit_fin_injective h1)
    (Prod.ext (asciiDigit_fin_injective h2) (asciiDigit_fin_injective h3)))

/-- The IVs of digit groups are exactly those of four digits. -/
theorem setOf_ivs_eq_range : {iv : Block | ∃ g : Quad, IsDigitGroup g ∧ iv = ivOfGroup g} = Set.range ivOfDigits := by
  ext iv
  constructor
  · rintro ⟨g, ⟨d0, d1, d2, d3, h0, h1, h2, h3, rfl⟩, rfl⟩
    exact ⟨(⟨d0, by omega⟩, ⟨d1, by omega⟩, ⟨d2, by omega⟩, ⟨d3, by omega⟩), rfl⟩
  · rintro ⟨⟨d0, d1, d2, d3⟩, rfl⟩
    exact ⟨_, ⟨d0, d1, d2, d3, by omega, by omega, by omega, by omega, rfl⟩, rfl⟩

/-- Settles O40: the IV is its group four times over, and four digits give 10 * 10 * 10 * 10 different ones. -/
theorem ivSpaceHasTenThousandMembers : Obligations.IvSpaceHasTenThousandMembers := by
  refine ⟨fun g hg => ⟨rfl, fun _ hi => ivOfGroup_bytes_periodic g hi, fun b hb => ?digit⟩, ?count⟩
  case digit =>
    have hmem : b ∈ g.bytes := by simpa [ivOfGroup_bytes] using hb
    obtain ⟨d, hd, rfl⟩ := hg.mem_bytes hmem
    rw [asciiDigit_toNat hd]
    omega
  case count =>
    rw [setOf_ivs_eq_range, Set.ncard_range_of_injective ivOfDigits_injective]
    simp

end Sys2Proof.Machine

/-! ## Proofs: padding, CBC and the payload (43_padding_cbc)

Cutting into blocks commutes with taking whole blocks, and so does the chaining; the payload's blocks are the IV and
then the chained blocks. The round trip needs of the block transform that it is injective. -/

namespace Sys2Proof.Machine

/-! ### Padding (R192, R200) -/

/-- Padding fills the last block up, or adds a whole one. -/
theorem pad_length_eq (p : List Byte) : (pad p).length = 16 * (p.length / 16) + 16 := by
  rw [pad_length, padCount]
  omega

@[simp] theorem take_pad (p : List Byte) : (pad p).take p.length = p := List.take_left

theorem drop_pad (p : List Byte) :
    (pad p).drop p.length = List.replicate (padCount p.length) (BitVec.ofNat 8 (padCount p.length)) := List.drop_left

/-- The number of bytes added fits a byte. -/
theorem padByte_toNat (n : Nat) : (BitVec.ofNat 8 (padCount n)).toNat = padCount n := by
  obtain ⟨_, h16⟩ := padCount_bounds n
  exact BitVec.toNat_ofNat _ _ |>.trans (Nat.mod_eq_of_lt (by omega))

theorem getLastD_pad (p : List Byte) : (pad p).getLastD 0 = BitVec.ofNat 8 (padCount p.length) := by
  obtain ⟨h1, _⟩ := padCount_bounds p.length
  obtain ⟨n, hn⟩ : ∃ n, padCount p.length = n + 1 := ⟨padCount p.length - 1, by omega⟩
  rw [pad, hn, List.replicate_succ', ← List.append_assoc, List.getLastD_concat]

/-- The last byte of a padded string says where the padding begins. -/
theorem pad_length_sub_getLastD (p : List Byte) : (pad p).length - ((pad p).getLastD 0).toNat = p.length := by
  rw [getLastD_pad, padByte_toNat, pad_length, Nat.add_sub_cancel]

@[simp] theorem unpad_pad (p : List Byte) : unpad (pad p) = p := by
  rw [unpad, pad_length_sub_getLastD, take_pad]

/-- Settles O30: what is added is `padCount` copies of `padCount`, which fill up a block. -/
theorem padAddsItsOwnCount : Obligations.PadAddsItsOwnCount := by
  intro p
  have hlen := pad_length_eq p
  refine ⟨hlen, by omega, by omega, fun n hn hlt => by omega, take_pad p, fun b hb => ?_⟩
  rw [drop_pad] at hb
  rw [List.eq_of_mem_replicate hb, padByte_toNat]
  exact ⟨rfl, padCount_bounds p.length⟩

/-- Settles O31: the last byte is the count, so the last bytes of that number are the padding. -/
theorem unpadInvertsPad : Obligations.UnpadInvertsPad := by
  intro p
  obtain ⟨h1, h16⟩ := padCount_bounds p.length
  rw [pad_length_sub_getLastD, drop_pad, getLastD_pad, padByte_toNat]
  exact ⟨h1, h16, fun _ hb => List.eq_of_mem_replicate hb, unpad_pad p⟩

/-! ### The chain of blocks (R194) -/

theorem getElem_blocksOf (q : List Byte) {i : Nat} (h : i < (blocksOf q).length) : (blocksOf q)[i] = blockAt q i := by
  simp [blocksOf]

@[simp] theorem blocksOf_cbcEncrypt (k : List Byte) (iv : Block) (q : List Byte) :
    blocksOf (cbcEncrypt k iv q) = cbcBlocks k iv (blocksOf q) := blocksOf_flatMap _

/-- Each block goes into E with the block before it in the chain that starts with `prev`. -/
theorem getElem_cbcBlocks (k : List Byte) (prev : Block) (qs : List Block) (i : Nat) (h : i < qs.length) :
    (cbcBlocks k prev qs)[i]'(by simpa using h) =
      Aes.blockEnc k (qs[i].xor ((prev :: cbcBlocks k prev qs)[i]'(by simp; omega))) := by
  induction qs generalizing prev i with
  | nil => exact absurd h (Nat.not_lt_zero i)
  | cons q qs ih =>
    cases i with
    | zero => rfl
    | succ i => exact ih _ i (Nat.lt_of_succ_lt_succ h)

/-- Settles O32, from the chain of blocks: cutting the ciphertext into blocks gives the chained blocks back. -/
theorem cbcBlocksFollowTheChain : Obligations.CbcBlocksFollowTheChain := by
  intro k iv q i hq hi
  have hc : ∀ j, (hj : j < q.length / 16) →
      blockAt (cbcEncrypt k iv q) j = (cbcBlocks k iv (blocksOf q))[j]'(by simpa using hj) := fun j hj => by
    rw [← getElem_blocksOf _ (by simpa using hj)]
    simp
  have hlen : (cbcEncrypt k iv q).length = q.length := by rw [cbcEncrypt_length]; omega
  refine ⟨hlen, ?_⟩
  rw [hc i hi, getElem_cbcBlocks k iv _ i (by simpa using hi), getElem_blocksOf]
  cases i with
  | zero => rfl
  | succ j => rw [if_neg j.succ_ne_zero, Nat.add_sub_cancel, hc j (by omega)]; rfl

/-! ### The payload (R196, R197) -/

@[simp] theorem blockAt_payload_zero (k : List Byte) (iv : Block) (p : List Byte) : blockAt (payload k iv p) 0 = iv :=
  blockAt_bytes_append iv _

/-- The blocks of a payload: the IV, and the chain started with it. -/
theorem blocksOf_payload (k : List Byte) (iv : Block) (p : List Byte) :
    blocksOf (payload k iv p) = iv :: cbcBlocks k iv (blocksOf (pad p)) := by
  rw [payload, blocksOf_append, blocksOf_cbcEncrypt]

/-- Settles O33: the payload is the IV followed by a ciphertext as long as the padded plaintext. -/
theorem payloadLengthAndLayout : Obligations.PayloadLengthAndLayout := by
  intro k iv p
  have hpad := pad_length_eq p
  have hlen : (payload k iv p).length = 32 + 16 * (p.length / 16) := by
    rw [payload_length_eq, ← pad_length]
    omega
  refine ⟨hlen, by omega, by omega, List.take_left' (Block.bytes_length iv), blockAt_payload_zero k iv p,
    List.drop_left' (Block.bytes_length iv), fun b hb hp => ?_⟩
  obtain ⟨hmod, _, _, _⟩ := (buildWf_iff b).mp hb
  rw [hlen, Build.outCap]
  omega

/-! ### Prefixes (R201) -/

theorem blockAt_take (q : List Byte) {i j : Nat} (h : i < j) : blockAt (q.take (16 * j)) i = blockAt q i := by
  have hbyte : ∀ n, n < 16 * j → (q.take (16 * j)).getD n 0 = q.getD n 0 := fun n hn => by
    rw [List.getD_eq_getElem?_getD, List.getElem?_take_of_lt hn, List.getD_eq_getElem?_getD]
  unfold blockAt quadAt
  simp (disch := omega) only [hbyte]

theorem blocksOf_take (q : List Byte) (j : Nat) : blocksOf (q.take (16 * j)) = (blocksOf q).take j := by
  refine List.ext_getElem (by simp only [blocksOf_length, List.length_take]; omega) fun i hi _ => ?_
  rw [List.getElem_take, getElem_blocksOf, getElem_blocksOf, blockAt_take]
  rw [blocksOf_length, List.length_take] at hi
  omega

theorem flatMap_bytes_take (bs : List Block) (j : Nat) :
    (bs.flatMap Block.bytes).take (16 * j) = (bs.take j).flatMap Block.bytes := by
  calc (bs.flatMap Block.bytes).take (16 * j)
    _ = (blocksOf ((bs.flatMap Block.bytes).take (16 * j))).flatMap Block.bytes := by
      refine (flatMap_blocksOf _ ?_).symm
      rw [List.length_take, flatMap_bytes_length]
      omega
    _ = (bs.take j).flatMap Block.bytes := by rw [blocksOf_take, blocksOf_flatMap]

theorem cbcBlocks_take (k : List Byte) (prev : Block) (qs : List Block) (j : Nat) :
    cbcBlocks k prev (qs.take j) = (cbcBlocks k prev qs).take j := by
  induction qs generalizing prev j with
  | nil => simp [cbcBlocks]
  | cons q qs ih =>
    cases j with
    | zero => rfl
    | succ j => simp [cbcBlocks, ih]

/-- The first blocks of a ciphertext are the ciphertext of the first blocks. -/
theorem cbcEncrypt_take (k : List Byte) (iv : Block) (q : List Byte) (j : Nat) :
    cbcEncrypt k iv (q.take (16 * j)) = (cbcEncrypt k iv q).take (16 * j) := by
  rw [cbcEncrypt, cbcEncrypt, blocksOf_take, cbcBlocks_take, flatMap_bytes_take]

/-- The blocks of a payload before the padding are the IV and the ciphertext of the plaintext's own. -/
theorem payload_take (k : List Byte) (iv : Block) {p : List Byte} {j : Nat} (h : 16 * j ≤ p.length) :
    (payload k iv p).take (16 + 16 * j) = iv.bytes ++ cbcEncrypt k iv (p.take (16 * j)) := by
  have hpad : (pad p).take (16 * j) = p.take (16 * j) := List.take_append_of_le_length h
  rw [payload, ← Block.bytes_length iv, List.take_length_add_append, Block.bytes_length, ← cbcEncrypt_take, hpad]

/-- Settles O34: both prefixes are functions of the bytes the plaintexts share. -/
theorem payloadPrefixProperty : Obligations.PayloadPrefixProperty := by
  intro k iv p p' j h
  refine ⟨fun _ _ => ?_, fun hp hp' => ?_⟩
  · rw [← cbcEncrypt_take, h, cbcEncrypt_take]
  · rw [payload_take k iv hp.le, h, payload_take k iv hp'.le]

/-! ### The block transform is injective (R210, R219 to R223) -/

namespace Aes

theorem sboxInverse_subBytes (s : Block) : (subBytes s).map sboxInverse = s := by
  simp [subBytes, Block.map, Quad.map, sboxInverse_sbox]

theorem shiftRows_four (s : Block) : shiftRows (shiftRows (shiftRows (shiftRows s))) = s := rfl

theorem mixColumns_four (s : Block) : mixColumns (mixColumns (mixColumns (mixColumns s))) = s := by
  simp [mixColumns, mixColumn_four]

theorem subBytes_injective : Function.Injective subBytes :=
  Function.LeftInverse.injective (g := Block.map sboxInverse) sboxInverse_subBytes

theorem shiftRows_injective : Function.Injective shiftRows :=
  Function.LeftInverse.injective (g := shiftRows ∘ shiftRows ∘ shiftRows) shiftRows_four

theorem mixColumns_injective : Function.Injective mixColumns :=
  Function.LeftInverse.injective (g := mixColumns ∘ mixColumns ∘ mixColumns) mixColumns_four

theorem addRoundKey_injective (w : List Quad) (r : Nat) : Function.Injective (addRoundKey w r) :=
  Function.LeftInverse.injective (g := addRoundKey w r) fun s => Block.xor_cancel s (roundKey w r)

theorem middleRounds_injective (w : List Quad) (n r : Nat) : Function.Injective (middleRounds w n r) := by
  induction n generalizing r with
  | zero => exact Function.injective_id
  | succ n ih =>
    exact (ih (r + 1)).comp ((addRoundKey_injective w r).comp
      (mixColumns_injective.comp (shiftRows_injective.comp subBytes_injective)))

theorem cipher_injective (nr : Nat) (w : List Quad) : Function.Injective (cipher nr w) :=
  (addRoundKey_injective w nr).comp (shiftRows_injective.comp (subBytes_injective.comp
    ((middleRounds_injective w (nr - 1) 1).comp (addRoundKey_injective w 0))))

/-- For a key of an accepted length E is the cipher under the expanded key. -/
theorem blockEnc_eq_cipher {k : List Byte} (hk : keyLengthOk k.length = true) :
    blockEnc k = cipher (rounds (k.length / 4)) (keyExpansion (k.length / 4) k) :=
  funext fun _ => if_pos hk

theorem blockEnc_injective {k : List Byte} (hk : keyLengthOk k.length = true) : Function.Injective (blockEnc k) :=
  blockEnc_eq_cipher hk ▸ cipher_injective _ _

end Aes

/-! ### The round trip (R199) -/

/-- Undoing E and then the chaining gives the blocks back. -/
theorem cbcDecryptBlocks_cbcBlocks {d : Block → Block} {k : List Byte} (hd : Function.LeftInverse d (Aes.blockEnc k))
    (prev : Block) (qs : List Block) : cbcDecryptBlocks d prev (cbcBlocks k prev qs) = qs := by
  induction qs generalizing prev with
  | nil => rfl
  | cons q qs ih => rw [cbcBlocks, cbcDecryptBlocks, hd, Block.xor_cancel, ih]

theorem recoverPadded_payload {d : Block → Block} {k : List Byte} (hd : Function.LeftInverse d (Aes.blockEnc k))
    (iv : Block) (p : List Byte) : recoverPadded d (payload k iv p) = pad p := by
  have hwhole : (pad p).length % 16 = 0 := by rw [pad_length_eq]; omega
  rw [recoverPadded, blockAt_payload_zero, blocksOf_payload, List.tail_cons, cbcDecryptBlocks_cbcBlocks hd,
    flatMap_blocksOf _ hwhole]

/-- Settles O36: E is injective, so its inverse undoes it, and the padded plaintext comes back. -/
theorem payloadRoundTrip : Obligations.PayloadRoundTrip := by
  intro k iv p hk
  have hinj := Aes.blockEnc_injective ((keyLengthOk_iff _).mpr hk)
  rw [recoverPadded_payload (Function.leftInverse_invFun hinj), unpad_pad]

end Sys2Proof.Machine

/-! ## Proofs: the block transform (44_block_cipher)

`mul` is linear in its first byte and commutes with `xtime`, so two factors change places: an inverse is unique, and
undoing the affine part of R215 on the table's entry gives it. E is injective on
a finite set, so it is a permutation. Each word the key expansion adds keeps the recurrence of R218. -/

namespace Sys2Proof.Machine

/-! ### The block transform is a permutation (R210) -/

theorem Quad.finite : Finite Quad :=
  Finite.of_injective (fun q : Quad => (q.b0, q.b1, q.b2, q.b3)) fun ⟨_, _, _, _⟩ ⟨_, _, _, _⟩ h => by simpa using h

theorem Block.finite : Finite Block :=
  have := Quad.finite
  Finite.of_injective (fun b : Block => (b.c0, b.c1, b.c2, b.c3)) fun ⟨_, _, _, _⟩ ⟨_, _, _, _⟩ h => by simpa using h

/-- Settles O35: E is injective, and there are finitely many blocks. -/
theorem blockTransformIsAPermutation : Obligations.BlockTransformIsAPermutation := fun k hk =>
  have := Block.finite
  Finite.injective_iff_bijective.mp (Aes.blockEnc_injective ((keyLengthOk_iff k.length).mpr hk))

namespace Aes

/-! ### The key schedule (R218) -/

/-- The words `w` satisfy R218 as far as they go: the key's words first, each later one made from those before it. -/
def IsSchedule (nk : Nat) (k : List Byte) (w : List Quad) : Prop :=
  (∀ i < nk, w[i]? = some (keyWord k i)) ∧
  ∀ (i : Nat) (t u : Quad), nk ≤ i → i < w.length → w[i - 1]? = some t → w[i - nk]? = some u →
    w[i]? = some (u.xor (scheduleTerm nk i t))

theorem isSchedule_keyWords (nk : Nat) (k : List Byte) : IsSchedule nk k ((List.range nk).map (keyWord k)) := by
  refine ⟨fun i hi => by simp [hi], fun i _ _ hle hlt => ?_⟩
  rw [List.length_map, List.length_range] at hlt
  omega

/-- The word R218 makes from the last word and the one `Nk` places back carries the schedule on. -/
theorem IsSchedule.append {nk : Nat} {k : List Byte} {w : List Quad} {t u : Quad} (h : IsSchedule nk k w) (hnk : 0 < nk)
    (hw : nk ≤ w.length) (ht : w[w.length - 1]? = some t) (hu : w[w.length - nk]? = some u) :
    IsSchedule nk k (w ++ [u.xor (scheduleTerm nk w.length t)]) := by
  obtain ⟨hkey, hrec⟩ := h
  refine ⟨fun i hi => ?_, fun i t' u' hle hlt ht' hu' => ?_⟩
  · rw [List.getElem?_append_left (by omega), hkey i hi]
  · rw [List.length_append, List.length_singleton] at hlt
    rw [List.getElem?_append_left (by omega)] at ht' hu'
    rcases Nat.lt_succ_iff_lt_or_eq.mp hlt with hold | rfl
    · rw [List.getElem?_append_left hold, hrec i t' u' hle hold ht' hu']
    · obtain rfl : t = t' := Option.some.inj (ht.symm.trans ht')
      obtain rfl : u = u' := Option.some.inj (hu.symm.trans hu')
      exact List.getElem?_concat_length

/-- Word `j` of the newest-first list stands `j + 1` places before the end of the list in order. -/
theorem getElem?_reverse_eq_getD {ws : List Quad} {j : Nat} (h : j < ws.length) (d : Quad) :
    ws.reverse[ws.length - (j + 1)]? = some (ws.getD j d) := by
  have hpos : ws.length - 1 - (ws.length - (j + 1)) = j := by omega
  rw [List.getElem?_reverse (by omega), hpos, List.getElem?_eq_getElem h, List.getD_eq_getElem _ _ h]

theorem expandWords_length (nk n i : Nat) (ws : List Quad) : (expandWords nk n i ws).length = ws.length + n := by
  induction n generalizing i ws with
  | zero => rfl
  | succ n ih => rw [expandWords, ih, List.length_cons]; omega

theorem isSchedule_expandWords {nk : Nat} {k : List Byte} {ws : List Quad} (n : Nat) (hnk : 0 < nk)
    (hw : nk ≤ ws.length) (h : IsSchedule nk k ws.reverse) :
    IsSchedule nk k (expandWords nk n ws.length ws).reverse := by
  induction n generalizing ws with
  | zero => exact h
  | succ n ih =>
    refine ih (ws := _ :: ws) (Nat.le_succ_of_le hw) ?_
    have ht := getElem?_reverse_eq_getD (hnk.trans_le hw) ⟨0, 0, 0, 0⟩
    have hu := getElem?_reverse_eq_getD (j := nk - 1) (ws := ws) (by omega) ⟨0, 0, 0, 0⟩
    rw [Nat.sub_add_cancel hnk] at hu
    rw [List.reverse_cons]
    simpa using h.append hnk (by simpa using hw) (by simpa using ht) (by simpa using hu)

theorem isSchedule_keyExpansion {nk : Nat} (hnk : 0 < nk) (k : List Byte) : IsSchedule nk k (keyExpansion nk k) := by
  have h := isSchedule_expandWords (ws := ((List.range nk).map (keyWord k)).reverse) (4 * (rounds nk + 1) - nk) hnk
    (by simp) (by simpa using isSchedule_keyWords nk k)
  simpa [keyExpansion] using h

theorem keyExpansion_length (nk : Nat) (k : List Byte) : (keyExpansion nk k).length = 4 * (nk + 7) := by
  rw [keyExpansion, List.length_reverse, expandWords_length, List.length_reverse, List.length_map, List.length_range,
    rounds]
  omega

end Aes

/-- Settles O38: the key's words satisfy the recurrence, and so does each string the expansion makes from them. -/
theorem keyScheduleRecurrence : Obligations.KeyScheduleRecurrence := by
  intro nk k hnk _
  obtain ⟨hkey, hrec⟩ := Aes.isSchedule_keyExpansion (nk := nk) (by omega) k
  have hlen := Aes.keyExpansion_length nk k
  exact ⟨hlen, hkey, fun i t w hle hlt => hrec i t w hle (hlt.trans_eq hlen.symm)⟩

namespace Aes

/-! ### The field product (R213) -/

theorem xtimes_xtime (k : Nat) (a : Byte) : xtimes k (xtime a) = xtime (xtimes k a) := by
  induction k with
  | zero => rfl
  | succ k ih => rw [xtimes, ih, xtimes]

theorem xtimes_xor (k : Nat) (a b : Byte) : xtimes k (a ^^^ b) = xtimes k a ^^^ xtimes k b := by
  induction k with
  | zero => rfl
  | succ k ih => rw [xtimes, ih, xtime_xor, xtimes, xtimes]

/-- What bit `k` of `b` adds to the sum that `mul a b` is. -/
def addTerm (a b acc : Byte) (k : Nat) : Byte := if b.getLsbD k then acc ^^^ xtimes k a else acc

theorem mul_eq_foldl (a b : Byte) : mul a b = (List.range 8).foldl (addTerm a b) 0x00 := rfl

theorem xor_mul (a c b : Byte) : mul (a ^^^ c) b = mul a b ^^^ mul c b := by
  have hstep : ∀ x y k, addTerm a b x k ^^^ addTerm c b y k = addTerm (a ^^^ c) b (x ^^^ y) k := fun x y k => by
    unfold addTerm
    split
    · rw [xtimes_xor, BitVec.xor_assoc, xor_left_comm _ y, ← BitVec.xor_assoc]
    · rfl
  exact List.foldl_hom₂ _ (· ^^^ ·) (addTerm a b) (addTerm c b) (addTerm (a ^^^ c) b) 0x00 0x00 hstep

theorem zero_mul (b : Byte) : mul 0 b = 0 :=
  calc mul 0 b
    _ = mul 0 b ^^^ mul 0 b := xor_mul 0 0 b
    _ = 0 := BitVec.xor_self

theorem xtime_mul (a b : Byte) : mul (xtime a) b = xtime (mul a b) := by
  have hstep : ∀ x k, addTerm (xtime a) b (xtime x) k = xtime (addTerm a b x k) := fun x k => by
    unfold addTerm
    split
    · rw [xtimes_xtime, xtime_xor]
    · rfl
  exact List.foldl_hom xtime (init := 0x00) hstep

theorem xtimes_mul (k : Nat) (a b : Byte) : mul (xtimes k a) b = xtimes k (mul a b) := by
  induction k with
  | zero => rfl
  | succ k ih => rw [xtimes, xtime_mul, ih, xtimes]

/-- Multiplying by `b` is linear and commutes with `xtime`, so it commutes with the sum that multiplying by `c` is. -/
theorem mul_right_comm (a b c : Byte) : mul (mul a c) b = mul (mul a b) c := by
  have hstep : ∀ x k, addTerm (mul a b) c (mul x b) k = mul (addTerm a c x k) b := fun x k => by
    unfold addTerm
    split
    · rw [xor_mul, xtimes_mul]
    · rfl
  rw [mul_eq_foldl a c, ← List.foldl_hom (mul · b) hstep, mul_eq_foldl (mul a b) c]
  exact congrArg (List.foldl _ · _) (zero_mul b)

theorem one_mul (b : Byte) : mul 1 b = b := by
  have h : ∀ b : Byte, mul 1 b = b := by decide +kernel
  exact h b

theorem two_mul (b : Byte) : mul 2 b = mul2 b := by
  rw [show (2 : Byte) = xtime 1 by decide, xtime_mul, one_mul, mul2]

theorem three_mul (b : Byte) : mul 3 b = mul3 b := by
  rw [show (3 : Byte) = 2 ^^^ 1 by decide, xor_mul, two_mul, one_mul, mul2, mul3]

/-! ### The field inverse and the S-box (R214 to R216) -/

/-- An inverse is unique: `b' = (a b) b' = (a b') b = b`. -/
theorem mul_eq_one_unique {a b c : Byte} (hb : mul a b = 1) (hc : mul a c = 1) : b = c :=
  calc b
    _ = mul (mul a c) b := by rw [hc, one_mul]
    _ = mul (mul a b) c := mul_right_comm a b c
    _ = c := by rw [hb, one_mul]

theorem mem_bytes (b : Byte) : b ∈ (List.range 256).map (BitVec.ofNat 8) :=
  List.mem_map.mpr ⟨b.toNat, List.mem_range.mpr b.isLt, BitVec.ofNat_toNat ..⟩

/-- `inv` finds the inverse where there is one. -/
theorem inv_eq_of_mul_eq_one {a b : Byte} (h : mul a b = 1) : inv a = b := by
  obtain ⟨c, hc⟩ := Option.isSome_iff_exists.mp
    (List.find?_isSome (p := fun b => mul a b == 0x01).mpr ⟨b, mem_bytes b, beq_iff_eq.mpr h⟩)
  have hmul := List.find?_some hc
  rw [inv, hc]
  exact mul_eq_one_unique (beq_iff_eq.mp hmul) h

theorem inv_zero : inv 0 = 0 := by
  have h : ((List.range 256).map (BitVec.ofNat 8)).find? (fun b => mul 0 b == 0x01) = none :=
    List.find?_eq_none.mpr fun b _ => by rw [zero_mul]; decide
  rw [inv, h, Option.getD_none]

/-- The affine part of R215. -/
def affine (b : Byte) : Byte :=
  b ^^^ b.rotateLeft 1 ^^^ b.rotateLeft 2 ^^^ b.rotateLeft 3 ^^^ b.rotateLeft 4 ^^^ 0x63

/-- The affine part of R215 undone. -/
def affineInverse (y : Byte) : Byte := y.rotateLeft 1 ^^^ y.rotateLeft 3 ^^^ y.rotateLeft 6 ^^^ 0x05

theorem affine_affineInverse (y : Byte) : affine (affineInverse y) = y := by
  have h : ∀ y : Byte, affine (affineInverse y) = y := by decide +kernel
  exact h y

/-- What the table holds at `a` is the affine image of an inverse of `a`: the check of R216's entries, one product each. -/
theorem mul_affineInverse_sbox {a : Byte} (ha : a ≠ 0) : mul a (affineInverse (sbox a)) = 1 := by
  have h : ∀ a : Byte, a ≠ 0 → mul a (affineInverse (sbox a)) = 1 := by decide +kernel
  exact h a ha

theorem inv_eq_affineInverse_sbox (a : Byte) : inv a = affineInverse (sbox a) := by
  by_cases ha : a = 0
  · rw [ha, inv_zero]; decide
  · exact inv_eq_of_mul_eq_one (mul_affineInverse_sbox ha)

theorem sboxFormula_eq_sbox (a : Byte) : sboxFormula a = sbox a :=
  calc sboxFormula a
    _ = affine (inv a) := rfl
    _ = sbox a := by rw [inv_eq_affineInverse_sbox, affine_affineInverse]

end Aes

/-- Settles O37: the affine part undone on the table's entry is the one inverse there is. -/
theorem sboxTableIsTheFormula : Obligations.SboxTableIsTheFormula := fun a =>
  ⟨(Aes.sboxFormula_eq_sbox a).symm,
    fun ha => by rw [Aes.inv_eq_affineInverse_sbox, Aes.mul_affineInverse_sbox ha],
    fun ha => by rw [ha, Aes.inv_zero]⟩

/-- Settles O39: ShiftRows by its sixteen bytes, MixColumns by R213's products with 2 and 3. -/
theorem roundFunctionsMatchTheMatrixForm : Obligations.RoundFunctionsMatchTheMatrixForm := by
  refine ⟨fun s r c hr hc => ?_, fun a => ?_⟩
  · interval_cases r <;> interval_cases c <;> rfl
  · simp only [Aes.two_mul, Aes.three_mul, Aes.mixColumn, and_self]

end Sys2Proof.Machine

/-! ## Proofs: when irq rises (60_exceptions R250)

irq is DONE and DONE_IE, so one of the two rises with it: DONE_IE only by WR IRQ_EN, DONE only by a command that
completes at once or fails. -/

namespace Sys2Proof.Machine

theorem State.irq_iff (s : State) : s.irq = true ↔ s.done = true ∧ s.doneIe = true := Bool.and_eq_true_iff

/-- DONE_IE is left alone by all instructions but WR IRQ_EN with all strobes, which writes nothing else of the block. -/
theorem exec_doneIe {i : Instr} {s t : State} (h : exec i s = .next t) :
    t.doneIe = s.doneIe ∨ ∃ d, i = .wrIrqEn d 0xF ∧ t = { s with doneIe := bit0 d }.writeOkay := by
  cases exec_inv h with
  | doneIe d hi ht => exact .inr ⟨d, hi, ht⟩
  | encrypt _ _ ht =>
    obtain ⟨_, _, _, _, _, _, _, he⟩ := s.issueEncrypt_writes
    exact .inl (by rw [ht, he]; rfl)
  | genIv _ _ ht =>
    obtain ⟨_, _, _, _, _, _, hg⟩ := s.generateIv_writes
    exact .inl (by rw [ht, hg]; rfl)
  | read _ ht | busError ht | violation _ ht | nop ht | ptLen _ _ ht | ivSrc _ _ ht | ivDigits _ _ ht
  | ptBuf _ _ _ _ _ _ ht | clear _ _ ht | illegal _ _ ht => exact .inl (by rw [ht]; rfl)

/-- An instruction that leaves DONE at 1 found it so, or is an accepted ENCRYPT, GEN_IV or illegal command. -/
theorem exec_done {i : Instr} {s t : State} (h : exec i s = .next t) (hd : t.done = true) :
    s.done = true ∨ s.busy = false ∧
      (i = .encrypt ∨ i = .genIv ∨ (∃ c, i = .illegal c) ∨ ∃ c, c ≠ 0 ∧ i = .wrCtrl c 0xF) := by
  cases exec_inv h with
  | encrypt hi hb _ =>
    rcases hi with hi | hi
    · exact .inr ⟨hb, .inl hi⟩
    · exact .inr ⟨hb, .inr (.inr (.inr ⟨1, by decide, hi⟩))⟩
  | genIv hi hb _ =>
    rcases hi with hi | hi
    · exact .inr ⟨hb, .inr (.inl hi)⟩
    · exact .inr ⟨hb, .inr (.inr (.inr ⟨2, by decide, hi⟩))⟩
  | illegal hi hb _ =>
    rcases hi with hi | ⟨c, hc, hi⟩
    · exact .inr ⟨hb, .inr (.inr (.inl hi))⟩
    · exact .inr ⟨hb, .inr (.inr (.inr ⟨c, by rintro rfl; exact absurd hc (by decide), hi⟩))⟩
  | clear _ _ ht => rw [ht] at hd; cases hd
  | read _ ht | busError ht | violation _ ht | nop ht | ptLen _ _ ht | ivSrc _ _ ht | ivDigits _ _ ht
  | doneIe _ _ ht | ptBuf _ _ _ _ _ _ ht => rw [ht] at hd; exact .inl hd

/-- Settles O49: where DONE_IE was 0 it is what rose, by `exec_doneIe`; where it was 1 it is DONE, by `exec_done`. -/
theorem irqRisesOnlyWithDoneOrEnable : Obligations.IrqRisesOnlyWithDoneOrEnable := by
  refine ⟨fun i s t h hs ht => ?_, fun s => Bool.true_and _⟩
  obtain ⟨hdone, hie⟩ := t.irq_iff.mp ht
  cases hsie : s.doneIe with
  | false =>
    rcases exec_doneIe h with heq | ⟨d, hi, rfl⟩
    · rw [heq, hsie] at hie; cases hie
    · exact .inr ⟨hdone, d, hie, hi⟩
  | true =>
    rcases exec_done h hdone with hsd | ⟨hb, hi⟩
    · rw [s.irq_iff.mpr ⟨hsd, hsie⟩] at hs; cases hs
    · exact .inl ⟨rfl, hb, hdone, hi⟩

end Sys2Proof.Machine

/-! ## Proofs: reset and hazards (70_reset_and_hazards)

The reset input first: the state it leaves, and what is served under it and after it. Then the end of BUSY, and the
hazards R278 and R279 between the host's writes and the completion. -/

namespace Sys2Proof.Machine

/-! ### The reset input (R270 to R273) -/

/-- Releasing a reset input that is not asserted changes nothing. -/
theorem State.resetInput_release_of_released {s : State} (h : s.resetHeld = false) : s.resetInput false = s := by
  simp [State.resetInput, h]

theorem step_of_reset {s : State} {a : Bool} {rest : List Event} (hw : s.build.wf = true)
    (he : s.events = .reset a :: rest) : step s = .next ({ s with events := rest }.resetInput a) := by
  simp [step, hw, he]

theorem step_of_reset_held {s : State} {rest : List Event} (hw : s.build.wf = true) (hr : s.resetHeld = true)
    (he : s.events = .reset false :: rest) :
    step s = .next { State.holdReset { s with events := rest } with resetHeld := false } := by
  simp [step_of_reset hw he, State.resetInput, hr]

theorem step_of_host_under_reset {s : State} {x : Transaction} {rest : List Event} (hw : s.build.wf = true)
    (hr : s.resetHeld = true) (he : s.events = .host x :: rest) :
    step s = .next { s with events := rest }.replyUnderReset := by
  simp [step_of_host hw he, hostStep, hr]

/-- Settles O58: `holdReset` has the reset values and empty buffers; released, a transaction is performed (O55). -/
theorem resetInputRestoresTheResetValues : Obligations.ResetInputRestoresTheResetValues := by
  intro s rest hw
  refine ⟨fun he => ?asserted, fun x hr he => ?held, fun hr he => ?released⟩
  case asserted =>
    exact ⟨_, step_of_reset hw he, State.holdReset_atReset _, rfl, rfl, rfl, rfl, fun _ => rfl, fun _ => rfl⟩
  case held => exact ⟨_, step_of_host_under_reset hw hr he, rfl⟩
  case released =>
    exact ⟨_, step_of_reset_held hw hr he, State.holdReset_atReset { s with events := rest }, rfl, rfl, rfl, rfl,
      fun x rest' hrest => stepRunsTheDecodedTransaction _ x rest' hw rfl hrest⟩

/-! ### The end of BUSY (R284) -/

/-- Settles O26: of the kinds of step only a completion and an applied reset write BUSY from 1. -/
theorem onlyCompletionOrResetEndsBusy : Obligations.OnlyCompletionOrResetEndsBusy := by
  intro s t h hb ht
  have ended : t.busy ≠ s.busy := by rw [hb, ht]; decide
  cases step_inv h with
  | engine rest he h =>
    rcases State.engineStep_cases { s with events := rest } with ⟨_, _, hs⟩ | ⟨_, hs⟩
    · rw [h, hs]
      exact .inr (.inr ⟨he.imp_right fun he => ⟨rest, he⟩, rfl, rfl⟩)
    · exact absurd (by rw [h, hs]) ended
  | reset a rest he h =>
    cases a with
    | true => exact .inl ⟨rest, he⟩
    | false =>
      cases hr : s.resetHeld with
      | true => exact .inr (.inl ⟨rest, he, rfl⟩)
      | false =>
        rw [State.resetInput_release_of_released (s := { s with events := rest }) hr] at h
        exact absurd (by rw [h]) ended
  | elsewhere _ _ _ _ h | underReset _ _ _ _ _ _ h => exact absurd (by subst h; rfl) ended
  | performed _ _ _ _ _ _ hx =>
    obtain ⟨_, _, _, h⟩ := exec_of_busy hx hb
    exact absurd (by rw [h]) ended

/-! ### A locked write and the completion (R278) -/

/-- The writes to the operands of an ENCRYPT. -/
def WritesOperand (i : Instr) : Prop :=
  (∃ d m, i = .wrPtLen d m) ∨ (∃ d m, i = .wrIvCfg d m) ∨ (∃ d m, i = .wrIvDigits d m) ∨ ∃ j d m, i = .wrPtBuf j d m

/-- `t` shows the payload and the STATUS of `s`, but for VIOL: it has other values at most of the operands a host writes,
DONE_IE, VIOL and the answer. -/
def SameResult (s t : State) : Prop :=
  ∃ l c d p ie v r, t = { s with
    ptLen := l, ivSrc := c, ivDigits := d, ptBuf := p, doneIe := ie, viol := v, response := r }

/-- A write to an operand is no command. -/
theorem exec_writesOperand {i : Instr} {s t : State} (h : exec i s = .next t) (hi : WritesOperand i) :
    SameResult s t := by
  cases exec_inv h with
  | read _ h | busError h | violation _ h | nop h | ptLen _ _ h | ivSrc _ _ h | ivDigits _ _ h | doneIe _ _ h
  | ptBuf _ _ _ _ _ _ h => exact ⟨_, _, _, _, _, _, _, h⟩
  | encrypt hc | genIv hc | clear hc | illegal hc =>
    rcases hi with ⟨_, _, rfl⟩ | ⟨_, _, rfl⟩ | ⟨_, _, rfl⟩ | ⟨_, _, _, rfl⟩ <;> simp at hc

/-- VIOL is bit 5 of STATUS and no other. -/
theorem State.statusWord_viol_or (s : State) (v : Bool) :
    State.statusWord { s with viol := v } ||| 0x20 = s.statusWord ||| 0x20 := by
  refine BitVec.eq_of_getLsbD_eq fun k _ => ?_
  rw [BitVec.getLsbD_or, BitVec.getLsbD_or, getLsbD_statusWord, getLsbD_statusWord]
  by_cases hk : k = 5
  · rw [hk]; simp
  · simp [hk]

theorem SameResult.shows {s t : State} (h : SameResult s t) :
    t.outBuf = s.outBuf ∧ t.outLen = s.outLen ∧ t.outValid = s.outValid ∧
      t.statusWord ||| 0x20 = s.statusWord ||| 0x20 := by
  obtain ⟨_, _, _, _, _, v, _, rfl⟩ := h
  exact ⟨rfl, rfl, rfl, s.statusWord_viol_or v⟩

theorem SameResult.storePayload {s t : State} (h : SameResult s t) (pay : List Byte) :
    SameResult (s.storePayload pay) (t.storePayload pay) := by
  obtain ⟨l, c, d, p, ie, v, r, rfl⟩ := h
  exact ⟨l, c, d, p, ie, v, r, rfl⟩

/-- An instruction performed under BUSY does not show in the completion after it, but for VIOL. -/
theorem exec_of_busy_complete {i : Instr} {s t : State} (h : exec i s = .next t) (hb : s.busy = true) :
    SameResult s.complete t.complete := by
  obtain ⟨r, v, ie, rfl⟩ := exec_of_busy h hb
  have hsame : SameResult s { s with response := r, viol := v, doneIe := ie } :=
    ⟨s.ptLen, s.ivSrc, s.ivDigits, s.ptBuf, ie, v, r, rfl⟩
  exact hsame.storePayload s.payloadOf

/-- Settles O28: both orders show the result of the completion alone. -/
theorem completionRaceKeepsThePayload : Obligations.CompletionRaceKeepsThePayload := by
  intro s a b i hb hi ha hafter
  obtain ⟨habuf, halen, havalid, hastatus⟩ := (exec_of_busy_complete ha hb).shows
  obtain ⟨hbbuf, hblen, hbvalid, hbstatus⟩ := (exec_writesOperand hafter hi).shows
  exact ⟨habuf.trans hbbuf.symm, halen.trans hblen.symm, havalid.trans hbvalid.symm, hastatus.trans hbstatus.symm⟩

/-! ### Bytes past the length (R279, R281) -/

/-- The plaintext is the bytes of PT_BUF below PT_LEN.LEN. -/
theorem State.plaintext_congr {s t : State} (hlen : t.ptLen = s.ptLen)
    (hbytes : ∀ i, i < s.ptLen.toNat → t.ptByte i = s.ptByte i) : t.plaintext = s.plaintext := by
  unfold State.plaintext
  rw [hlen]
  exact List.map_congr_left fun i hi => hbytes i (List.mem_range.mp hi)

/-- Storing a payload leaves PT_BUF alone. -/
theorem State.storePayload_withPtBuf (s : State) (m : Memory) (pay : List Byte) :
    State.storePayload { s with ptBuf := m } pay = { s.storePayload pay with ptBuf := m } := rfl

/-- Settles O29: the completion reads PT_BUF through the plaintext alone. -/
theorem bytesPastTheLengthAreIgnored : Obligations.BytesPastTheLengthAreIgnored := by
  intro s m hbytes
  have hplain : State.plaintext { s with ptBuf := m } = s.plaintext := State.plaintext_congr rfl hbytes
  have hpay : State.payloadOf { s with ptBuf := m } = s.payloadOf :=
    congrArg (payload s.build.key (ivOfGroup s.ivGroup)) hplain
  calc State.complete { s with ptBuf := m }
    _ = State.storePayload { s with ptBuf := m } s.payloadOf := congrArg (State.storePayload { s with ptBuf := m }) hpay
    _ = { s.complete with ptBuf := m } := s.storePayload_withPtBuf m s.payloadOf

end Sys2Proof.Machine
